-- ==== Sys2Proof/Word.lean ====
section
/-! DEFINITION. The words of the bus (spec/00_scope.md R13, R15) and the names of its lines, levels,
directions, cycle kinds, delays and observed events (spec/10_state.md R20, R21, R34, R36). -/

namespace Sys2Proof

/-- A nibble: 4 bits, one slot of LAD[3:0] (R13, `NIBBLE_W` of R11). -/
abbrev Nibble := BitVec 4

/-- A byte: 8 bits (R13). -/
abbrev Byte := BitVec 8

/-- An address as a caller passes it: 32 bits, `ADDR_STORE_W` (R11, R50). -/
abbrev Addr := BitVec 32

/-- An address as a frame carries it: 28 bits, `ADDR_TX_W` (R11, R75). -/
abbrev FrameAddr := BitVec 28

/-- A logic level (R15). -/
inductive Level where
  | low
  | high
  deriving DecidableEq, Repr, Inhabited

/-- What `SetDir` can set a line to (R14, R100). -/
inductive Direction where
  | input
  | output
  deriving DecidableEq, Repr, Inhabited

/-- The eight bus lines (R20). -/
inductive Line where
  | reset
  | lad0
  | lad1
  | lad2
  | lad3
  | lframe
  | lclk
  | we
  deriving DecidableEq, Repr, Inhabited

/-- `BusCycleKind` (R125). -/
inductive BusCycleKind where
  | memoryRead
  | memoryWrite
  deriving DecidableEq, Repr, Inhabited

/-- The named delays; a delay is a name, never a number (R242). -/
inductive DelayName where
  /-- `T_WSETTLE`, the two holds of `writeNibble` -/
  | wSettle
  /-- `T_RSETTLE`, the two settle delays of `readNibble` -/
  | rSettle
  /-- `T_POLL`, the wait between two status polls -/
  | poll
  /-- `T_RESET`, the two waits of `busInit` -/
  | reset
  deriving DecidableEq, Repr, Inhabited

/-- An event of the line trace (R34). -/
inductive LineEvent where
  | dir (line : Line) (d : Direction)
  | lvl (line : Line) (l : Level)
  | smp (line : Line) (l : Level)
  | wait (t : DelayName)
  deriving DecidableEq, Repr, Inhabited

/-- An entry of the nibble log (R36). -/
inductive NibbleEvent where
  | host (v : Nibble) (isFrameStart : Bool)
  | target (v : Nibble)
  deriving DecidableEq, Repr, Inhabited

end Sys2Proof
end

