-- ==== Sys2Proof/Syntax.lean ====
section
/-! DEFINITION. The engine's operations as syntax: one constructor for each row of
spec/opcode_table.json (spec/30_encoding.md R89), with the operands the table's `source_fields` give. -/

namespace Sys2Proof

/-- One (command byte, address) pair of an unlock sequence (spec/43_device_ops.md R165). -/
structure CmdPair where
  cmd : Byte
  addr : Addr
  deriving DecidableEq, Repr, Inhabited

/-- `DeviceDescriptor` (R165): an immutable record. `name` is text, a list of characters. -/
structure DeviceDescriptor where
  mfr : Byte
  chip : Byte
  name : List Char
  writeSeq : List CmdPair
  readSeq : List CmdPair
  deriving DecidableEq, Repr, Inhabited

/-- The lengths a read frame can carry: `READ_LENGTHS` (R11, R58). -/
inductive ReadLength where
  | b1
  | b2
  | b4
  | b16
  | b128
  deriving DecidableEq, Repr, Inhabited

/-- The data a write frame can carry: 1, 2 or 4 bytes, `WRITE_LENGTHS` (R11, R58). -/
inductive WriteData where
  | one (b0 : Byte)
  | two (b0 b1 : Byte)
  | four (b0 b1 b2 b3 : Byte)
  deriving DecidableEq, Repr, Inhabited

/-- A frame as START, ADDR, MSIZE and DATA determine it (R71, R72, R92). -/
inductive Frame where
  | read (addr : FrameAddr) (size : ReadLength)
  | write (addr : FrameAddr) (data : WriteData)
  deriving DecidableEq, Repr, Inhabited

/-- Why the words of a line are no instruction. Each reason is the decoder's. -/
inductive DecodeError where
  /-- the line ends inside an instruction, or holds none -/
  | truncated
  /-- the first words name no operation and no frame (START codes other than 0xD and 0xE, R84) -/
  | unknownCall
  /-- a frame's IDSEL slot is not 0x0 (R74, R87) -/
  | badIdsel
  /-- a frame's MSIZE slot holds a code that frame cannot carry (R76, R85) -/
  | reservedMsize
  /-- a Boolean, level or kind operand is neither 0 nor 1 -/
  | badFlag
  /-- a character of a display name is no Unicode code point -/
  | badChar
  /-- words other than fill stand after the instruction -/
  | trailing
  deriving DecidableEq, Repr, Inhabited

/-- The operations of the engine and the two frame formats (R89), in the table's order. -/
inductive Instr where
  -- signal layer (40_signal_layer.md)
  | setLinesOutput
  | setLinesInput (zeroFirst : Bool)
  | assertFrame (active : Bool)
  | setClock (level : Level)
  | busInit
  -- nibble transport (41_nibble_transport.md)
  | writeNibble (value : Nibble) (isFrameStart : Bool)
  | readNibble
  -- bus cycles (42_bus_cycles.md)
  | sizeCode (length : Nat) (kind : BusCycleKind)
  | readCycle (address : Addr) (length : Nat)
  | writeCycle (address : Addr) (bytes : List Byte)
  -- device operations (43_device_ops.md)
  | findDevice (mfr chip : Byte)
  | readDeviceIds
  | executeUnlockSequence (descriptor : DeviceDescriptor) (forWrite : Bool)
  | readStatusRegister
  | waitForWriteComplete
  -- block API (43_device_ops.md)
  | identify
  | unlockForWrite
  | unlockForRead
  | readBlock (address : Addr) (length : Nat)
  | writeBlock (address : Addr) (bytes : List Byte)
  -- frame formats (30_encoding.md)
  | readFrame (addr : FrameAddr) (size : ReadLength)
  | writeFrame (addr : FrameAddr) (data : WriteData)
  deriving DecidableEq, Repr, Inhabited

end Sys2Proof
end

