-- ==== Sys2Proof/Config.lean ====
section
/-! DEFINITION. What an implementation fixes. The constants of spec/00_scope.md R11 and the levels
R12 decides are plain definitions. R12's parameters are a record, `Params`: they are part of the bus
context's configuration (spec/10_state.md R39), so State holds them and a statement over every state
holds for all their values. The values a context has at process start, where R12 leaves them OPEN,
and the target's answers are constants without a body. -/

namespace Sys2Proof

/-! ### Fixed parameters (R11) and decided levels (R12) -/

/-- `START_READ` (R11, R73). -/
def Config.startRead : Nibble := 0xD
/-- `START_WRITE` (R11, R73). -/
def Config.startWrite : Nibble := 0xE
/-- `IDSEL_VALUE` (R11, R74). -/
def Config.idselValue : Nibble := 0x0
/-- `TAR_HOST` (R11, R79). -/
def Config.tarHost : Nibble := 0xF
/-- `RSYNC_OK` (R11, R80). -/
def Config.rsyncOk : Nibble := 0x0
/-- `TAR_EXPECT` (R11, R81). -/
def Config.tarExpect : Nibble := 0xF
/-- `SPACE_BIT` (R11, R52); the engine gives it no meaning. -/
def Config.spaceBit : Nat := 22
/-- `STATUS_CMD` (R11, R171). -/
def Config.statusCmd : Byte := 0x70
/-- `STATUS_BUSY_BIT` (R11, R42). -/
def Config.statusBusyBit : Nat := 0
/-- `READ_LENGTHS` (R11, R58). -/
def Config.readLengths : List Nat := [1, 2, 4, 16, 128]
/-- `WRITE_LENGTHS` (R11, R58). -/
def Config.writeLengths : List Nat := [1, 2, 4]
/-- `FRAME_ACTIVE_LEVEL` (R12, decided Low, D4). -/
def Config.frameActiveLevel : Level := .low
/-- `RESET_ACTIVE_LEVEL` (R12, decided Low, D13). -/
def Config.resetActiveLevel : Level := .low
/-- `REF_WRITE_SEQ` (R11, R167). -/
def Config.refWriteSeq : List CmdPair := [⟨0xAA, 0x75555⟩, ⟨0x55, 0x72AAA⟩, ⟨0xA0, 0x75555⟩]

/-- `REF_DEVICE`, the reference entry of the registry, given `REF_READ_SEQ` (R11, R167). -/
def Config.refDevice (refReadSeq : List CmdPair) : DeviceDescriptor :=
  { mfr := 0xBF, chip := 0x60
    name := ['S', 'S', 'T', '4', '9', 'L', 'F', '0', '0', '4', 'B']
    writeSeq := Config.refWriteSeq, readSeq := refReadSeq }

/-! ### Open parameters (R12) -/

/-- `PIN_MAP`: the host pin of each line (R12, R20). -/
structure PinMap where
  reset : Nat
  lad0 : Nat
  lad1 : Nat
  lad2 : Nat
  lad3 : Nat
  lframe : Nat
  lclk : Nat
  we : Nat
  deriving DecidableEq, Repr, Inhabited

/-- The pin a line is wired to. -/
def PinMap.pin (m : PinMap) : Line → Nat
  | .reset => m.reset
  | .lad0 => m.lad0
  | .lad1 => m.lad1
  | .lad2 => m.lad2
  | .lad3 => m.lad3
  | .lframe => m.lframe
  | .lclk => m.lclk
  | .we => m.we

/-- The parameters R12 leaves open, and `POLL_LIMIT`: constants for a context's lifetime (R39). -/
structure Params where
  /-- `PIN_MAP` -/
  pinMap : PinMap
  /-- `WE_LEVEL`, the level `busInit` drives on WE -/
  weLevel : Level
  /-- `WRITE_TAR_ZERO_FIRST` -/
  writeTarZeroFirst : Bool
  /-- `MFR_ID_ADDR` -/
  mfrIdAddr : Addr
  /-- `CHIP_ID_ADDR` -/
  chipIdAddr : Addr
  /-- `STATUS_ADDR` -/
  statusAddr : Addr
  /-- `REGISTRY` (R40, R166) -/
  registry : List DeviceDescriptor
  /-- `POLL_LIMIT` (R172) -/
  pollLimit : Option Nat
  deriving DecidableEq, Repr, Inhabited

/-- No two entries share a (mfr, chip) pair (R166). -/
def Params.pairsDistinct : List DeviceDescriptor → Bool
  | [] => true
  | d :: ds => ds.all (fun e => !(e.mfr == d.mfr && e.chip == d.chip)) && Params.pairsDistinct ds

/-- What R12, R166 and R167 require of the parameters: the registry holds the reference entry with
some read sequence, no pair twice and never the pair (0x00, 0x00); a poll limit is at least 1. -/
def Params.legal (p : Params) : Bool :=
  p.registry.any (fun d => d == Config.refDevice d.readSeq)
    && Params.pairsDistinct p.registry
    && p.registry.all (fun d => !(d.mfr == 0x00 && d.chip == 0x00))
    && (match p.pollLimit with
        | none => true
        | some n => decide (1 ≤ n))

/-- The entries of a list a registry can take in beside `kept` (R166): each one's pair is new and is
not (0x00, 0x00). -/
def Params.takeIn (kept : List DeviceDescriptor) : List DeviceDescriptor → List DeviceDescriptor
  | [] => kept
  | d :: ds =>
    if kept.any (fun e => e.mfr == d.mfr && e.chip == d.chip) || (d.mfr == 0x00 && d.chip == 0x00)
    then Params.takeIn kept ds
    else Params.takeIn (kept ++ [d]) ds

/-! ### Values at process start that the spec leaves OPEN (R12, R43; log 8, log 9) -/

opaque Config.pinMap : PinMap
opaque Config.weLevel : Level
opaque Config.writeTarZeroFirst : Bool
opaque Config.mfrIdAddr : Addr
opaque Config.chipIdAddr : Addr
opaque Config.statusAddr : Addr
opaque Config.refReadSeq : List CmdPair
/-- The OPEN further entries of `REGISTRY` (R166, N5). -/
opaque Config.furtherDevices : List DeviceDescriptor
/-- The caller's choice of diagnostic mode when it creates the context (R32). -/
opaque Config.diagnostic : Bool

/-- The parameters of the context at process start. The registry is the reference entry followed by
those further entries that R166 allows beside it (log 8); `POLL_LIMIT` is None (R12). -/
def Config.params : Params :=
  { pinMap := Config.pinMap, weLevel := Config.weLevel
    writeTarZeroFirst := Config.writeTarZeroFirst
    mfrIdAddr := Config.mfrIdAddr, chipIdAddr := Config.chipIdAddr, statusAddr := Config.statusAddr
    registry := Params.takeIn [Config.refDevice Config.refReadSeq] Config.furtherDevices
    pollLimit := none }

/-! ### Free values -/

/-- The target's answer to a `readNibble`, given the nibble log so far: an unconstrained draw
(R37, R68, R120; U1, U2, U10; log 2). -/
opaque Config.targetAnswer : List NibbleEvent → Nibble

end Sys2Proof
end

