-- ==== Sys2Proof/Machine/Operands.lean ====
section
/-! DEFINITION. The forms an operation's operands take on the bus: levels and bits, address nibbles,
the two nibbles of a byte, the size codes. -/

namespace Sys2Proof.Machine

/-- The other level: `not l` in R104 and R109. -/
def flipLevel : Level → Level
  | .low => .high
  | .high => .low

/-- High carries 1 and Low carries 0 (R15). -/
def levelOfBit (b : Bool) : Level := if b then .high else .low

/-- High is read as 1 (R15). -/
def bitOfLevel : Level → Bool
  | .low => false
  | .high => true

/-- The level LAD[i] carries for a nibble (R106). -/
def nibbleLevel (v : Nibble) (i : Nat) : Level := levelOfBit (v.getLsbD i)

/-- `v | (1 << i)` when the level is High, `v` when it is Low: one line of `sampleLAD` (R107). -/
def orBit (v : Nibble) (i : Nat) (l : Level) : Nibble :=
  if bitOfLevel l then v ||| (1#4 <<< i) else v

/-- The nibble `sampleLAD` forms from the levels of LAD0 to LAD3 (R107). -/
def nibbleOfLevels (l0 l1 l2 l3 : Level) : Nibble :=
  orBit (orBit (orBit (orBit 0#4 0 l0) 1 l1) 2 l2) 3 l3

/-- ADDR nibble k: `(addr >> (24 - 4k)) & 0xF` (R75, R129). -/
def addrNibble (a : Addr) (k : Nat) : Nibble := (a >>> (24 - 4 * k)).setWidth 4

/-- The bits of an address a frame carries, `addr[27:0]` (R50, R75). -/
def frameAddr (a : Addr) : FrameAddr := a.setWidth 28

/-- `b & 0xF` (R77). -/
def loNibble (b : Byte) : Nibble := b.setWidth 4

/-- `b >> 4` (R77). -/
def hiNibble (b : Byte) : Nibble := (b >>> 4).setWidth 4

/-- `(hi << 4) | lo` (R78, R132). -/
def byteOf (hi lo : Nibble) : Byte := (hi.setWidth 8 <<< 4) ||| lo.setWidth 8

/-- `sizeCode(length, kind)` on its domain; none where it raises `BadBlockLength` (R76, R126). -/
def sizeCode (length : Nat) (kind : BusCycleKind) : Option Nibble :=
  if length = 1 then some 0x0
  else if length = 2 then some 0x1
  else if length = 4 then some 0x2
  else if length = 16 ∧ kind = .memoryRead then some 0x4
  else if length = 128 ∧ kind = .memoryRead then some 0x7
  else none

/-- The number of bytes a read size stands for (R76). -/
def readBytes : ReadLength → Nat
  | .b1 => 1
  | .b2 => 2
  | .b4 => 4
  | .b16 => 16
  | .b128 => 128

/-- The MSIZE code of a read frame (R76). -/
def readCode : ReadLength → Nibble
  | .b1 => 0x0
  | .b2 => 0x1
  | .b4 => 0x2
  | .b16 => 0x4
  | .b128 => 0x7

/-- The bytes a write frame carries, in bus order (R56). -/
def dataBytes : WriteData → List Byte
  | .one b0 => [b0]
  | .two b0 b1 => [b0, b1]
  | .four b0 b1 b2 b3 => [b0, b1, b2, b3]

/-- The MSIZE code of a write frame (R76). -/
def writeCode : WriteData → Nibble
  | .one _ => 0x0
  | .two _ _ => 0x1
  | .four _ _ _ _ => 0x2

/-- The 32-bit address a frame's ADDR field is sent from, with bits 31..28 zero (R50). -/
def wideAddr (a : FrameAddr) : Addr := a.setWidth 32

/-- The first byte of a cycle's result: `m[0]` in R169 and R171. -/
def firstByte (bytes : List Byte) : Byte := bytes.headD 0x00

end Sys2Proof.Machine
end

