-- ==== Sys2Proof/Machine/Flags.lean ====
section
/-! DEFINITION. The conditions the engine tests on a nibble or a byte it has read. -/

namespace Sys2Proof.Machine

/-- The RSYNC nibble is the one accepted value, `0x0` (R80, R131, R136). -/
def rsyncAccepted (s : Nibble) : Bool := s == Config.rsyncOk

/-- The trailing turnaround nibble is the expected `0xF` (R81, R133, R137). -/
def tarExpected (t : Nibble) : Bool := t == Config.tarExpect

/-- The status byte says that a write is in progress: bit 0 is 1; no other bit counts (R42, R172). -/
def statusBusy (status : Byte) : Bool := status.getLsbD Config.statusBusyBit

/-- `n` busy polls have used up the limit: `POLL_LIMIT == Some m and n >= m` (R172). -/
def pollsExhausted (limit : Option Nat) (n : Nat) : Bool :=
  match limit with
  | none => false
  | some m => decide (m ≤ n)

end Sys2Proof.Machine
end

