-- ==== Sys2Proof/WellFormed.lean ====
section
/-! DEFINITION. Which instructions ask only for what the protocol supports. An operand's type already
holds only what the operand may be; what remains is a length (spec/20_memory.md R58: any other value "is
a caller error"). An ill-formed instruction has words, decodes and runs like any other: running it raises
`BadBlockLength` (R126, R201). -/

namespace Sys2Proof

/-- The protocol supports this transfer length for this direction: `READ_LENGTHS` and `WRITE_LENGTHS`
(R11, R58). -/
def lengthSupported (length : Nat) : BusCycleKind → Bool
  | .memoryRead => Config.readLengths.contains length
  | .memoryWrite => Config.writeLengths.contains length

/-- The instruction asks for no transfer length that the protocol lacks. -/
def Instr.wellFormed : Instr → Bool
  | .setLinesOutput => true
  | .setLinesInput _ => true
  | .assertFrame _ => true
  | .setClock _ => true
  | .busInit => true
  | .writeNibble _ _ => true
  | .readNibble => true
  | .sizeCode length kind => lengthSupported length kind
  | .readCycle _ length => lengthSupported length .memoryRead
  | .writeCycle _ bytes => lengthSupported bytes.length .memoryWrite
  | .findDevice _ _ => true
  | .readDeviceIds => true
  | .executeUnlockSequence _ _ => true
  | .readStatusRegister => true
  | .waitForWriteComplete => true
  | .identify => true
  | .unlockForWrite => true
  | .unlockForRead => true
  | .readBlock _ length => lengthSupported length .memoryRead
  | .writeBlock _ bytes => lengthSupported bytes.length .memoryWrite
  | .readFrame _ _ => true
  | .writeFrame _ _ => true

end Sys2Proof
end

