-- ==== Sys2Proof/Decode.lean ====
section
/-! DEFINITION. From words to instructions and back. The words of this hardware are nibbles.

A frame's words are its host slots START, IDSEL, ADDR, MSIZE and, for a write, DATA (spec/30_encoding.md
R71 to R78); the decoder of R92 reads them. The table gives no bits to an operation's call ("emits no
frame of its own"), so a call has words of the model's own (log 3): the layer of the operation's row
(1 signal, 2 transport, 3 cycle, 4 device, 5 block API), its place among that layer's rows, then its
operands. An address goes most significant nibble first, as ADDR does (R75); a byte low nibble first, as
DATA does (R55); a length or a count, which has no width (R13, R126), in as many words as it needs (log 19).
A line may be filled up with zero words after its instruction (log 4). -/

namespace Sys2Proof

open Sys2Proof.Machine

/-! ### Fields -/

/-- What a field reader answers: the field and the words after it. -/
abbrev Field (α : Type) := Except DecodeError (α × List Nibble)

/-- One field after another: the second reads on where the first stopped, and the first error stands. -/
def andThen {α β : Type} (x : Field α) (f : α → List Nibble → Field β) : Field β :=
  match x with
  | .ok (a, rest) => f a rest
  | .error e => .error e

/-- One word. -/
def takeNibble : List Nibble → Field Nibble
  | v :: rest => .ok (v, rest)
  | [] => .error .truncated

/-- A Boolean, 0 or 1. -/
def takeFlag : List Nibble → Field Bool
  | v :: rest => if v = 0 then .ok (false, rest) else if v = 1 then .ok (true, rest) else .error .badFlag
  | [] => .error .truncated

/-- A byte, low nibble first (R55). -/
def takeByte : List Nibble → Field Byte
  | lo :: hi :: rest => .ok (byteOf hi lo, rest)
  | _ => .error .truncated

/-- Seven nibbles, most significant first: ADDR (R75). -/
def takeFrameAddr : List Nibble → Field FrameAddr
  | a6 :: a5 :: a4 :: a3 :: a2 :: a1 :: a0 :: rest =>
    .ok (a6 ++ a5 ++ a4 ++ a3 ++ a2 ++ a1 ++ a0, rest)
  | _ => .error .truncated

/-- Eight nibbles, most significant first: a 32-bit number. -/
def takeWord : List Nibble → Field (BitVec 32)
  | a7 :: a6 :: a5 :: a4 :: a3 :: a2 :: a1 :: a0 :: rest =>
    .ok (a7 ++ a6 ++ a5 ++ a4 ++ a3 ++ a2 ++ a1 ++ a0, rest)
  | _ => .error .truncated

/-- A count or a length, of any size: base-8 digits, the least significant first. A digit with bit 3 set
has more after it, and the number those make counts on from 1, so each number has one form. -/
def takeCount : List Nibble → Field Nat
  | v :: ws =>
    if v.getLsbD 3 then
      match takeCount ws with
      | .ok (n, rest) => .ok (v.toNat % 8 + 8 * (n + 1), rest)
      | .error e => .error e
    else .ok (v.toNat, ws)
  | [] => .error .truncated

/-- `n` bytes. -/
def takeBytes : List Nibble → Nat → Field (List Byte)
  | ws, 0 => .ok ([], ws)
  | lo :: hi :: rest, n + 1 =>
    match takeBytes rest n with
    | .ok (bs, r) => .ok (byteOf hi lo :: bs, r)
    | .error e => .error e
  | _, _ + 1 => .error .truncated

/-- A code point from six nibbles, most significant first. -/
def codePoint (c5 c4 c3 c2 c1 c0 : Nibble) : Nat := (c5 ++ c4 ++ c3 ++ c2 ++ c1 ++ c0 : BitVec 24).toNat

/-- `n` characters, six words each. -/
def takeChars : List Nibble → Nat → Field (List Char)
  | ws, 0 => .ok ([], ws)
  | c5 :: c4 :: c3 :: c2 :: c1 :: c0 :: rest, n + 1 =>
    let cp := codePoint c5 c4 c3 c2 c1 c0
    if cp.isValidChar then
      match takeChars rest n with
      | .ok (cs, r) => .ok (Char.ofNat cp :: cs, r)
      | .error e => .error e
    else .error .badChar
  | _, _ + 1 => .error .truncated

/-- `n` (command, address) pairs, ten words each. -/
def takePairs : List Nibble → Nat → Field (List CmdPair)
  | ws, 0 => .ok ([], ws)
  | lo :: hi :: a7 :: a6 :: a5 :: a4 :: a3 :: a2 :: a1 :: a0 :: rest, n + 1 =>
    match takePairs rest n with
    | .ok (ps, r) => .ok (⟨byteOf hi lo, a7 ++ a6 ++ a5 ++ a4 ++ a3 ++ a2 ++ a1 ++ a0⟩ :: ps, r)
    | .error e => .error e
  | _, _ + 1 => .error .truncated

/-- A level: 0 Low, 1 High (R15). -/
def takeLevel (ws : List Nibble) : Field Level :=
  andThen (takeFlag ws) fun b ws => .ok (levelOfBit b, ws)

/-- A cycle kind: 0 `MemoryRead`, 1 `MemoryWrite`. -/
def takeKind (ws : List Nibble) : Field BusCycleKind :=
  andThen (takeFlag ws) fun b ws => .ok (if b then .memoryWrite else .memoryRead, ws)

/-- A counted list of bytes. -/
def takeByteList (ws : List Nibble) : Field (List Byte) :=
  andThen (takeCount ws) fun n ws =>
  takeBytes ws n

/-- A counted list of (command, address) pairs. -/
def takePairList (ws : List Nibble) : Field (List CmdPair) :=
  andThen (takeCount ws) fun n ws =>
  takePairs ws n

/-- A device descriptor: mfr, chip, name, writeSeq, readSeq (R165). -/
def takeDescriptor (ws : List Nibble) : Field DeviceDescriptor :=
  andThen (takeByte ws) fun mfr ws =>
  andThen (takeByte ws) fun chip ws =>
  andThen (takeCount ws) fun n ws =>
  andThen (takeChars ws n) fun name ws =>
  andThen (takePairList ws) fun writeSeq ws =>
  andThen (takePairList ws) fun readSeq ws =>
  .ok (⟨mfr, chip, name, writeSeq, readSeq⟩, ws)

/-! ### Frames (R92) -/

/-- The read length an MSIZE code stands for (R76); the codes R85 lists as never sent are refused. -/
def readSize (m : Nibble) (ws : List Nibble) : Field ReadLength :=
  if m = 0x0 then .ok (.b1, ws)
  else if m = 0x1 then .ok (.b2, ws)
  else if m = 0x2 then .ok (.b4, ws)
  else if m = 0x4 then .ok (.b16, ws)
  else if m = 0x7 then .ok (.b128, ws)
  else .error .reservedMsize

/-- The DATA field an MSIZE code of a write frame announces (R76, R77). -/
def takeData (m : Nibble) (ws : List Nibble) : Field WriteData :=
  if m = 0x0 then
    match ws with
    | l0 :: h0 :: rest => .ok (.one (byteOf h0 l0), rest)
    | _ => .error .truncated
  else if m = 0x1 then
    match ws with
    | l0 :: h0 :: l1 :: h1 :: rest => .ok (.two (byteOf h0 l0) (byteOf h1 l1), rest)
    | _ => .error .truncated
  else if m = 0x2 then
    match ws with
    | l0 :: h0 :: l1 :: h1 :: l2 :: h2 :: l3 :: h3 :: rest =>
      .ok (.four (byteOf h0 l0) (byteOf h1 l1) (byteOf h2 l2) (byteOf h3 l3), rest)
    | _ => .error .truncated
  else .error .reservedMsize

/-- Slots 1 to 9 of a frame: IDSEL, which must be `0x0` (R74), ADDR and MSIZE. -/
def takeHeader (ws : List Nibble) : Field (FrameAddr × Nibble) :=
  andThen (takeNibble ws) fun idsel ws =>
  if idsel = Config.idselValue then
    andThen (takeFrameAddr ws) fun addr ws =>
    andThen (takeNibble ws) fun m ws =>
    .ok ((addr, m), ws)
  else .error .badIdsel

/-- A frame from its host slots, up to the host half of the turnaround (R71, R72, R92). -/
def decodeFrame : List Nibble → Field Frame
  | [] => .error .truncated
  | start :: ws =>
    if start = Config.startRead then
      andThen (takeHeader ws) fun header ws =>
      andThen (readSize header.2 ws) fun size ws =>
      .ok (.read header.1 size, ws)
    else if start = Config.startWrite then
      andThen (takeHeader ws) fun header ws =>
      andThen (takeData header.2 ws) fun data ws =>
      .ok (.write header.1 data, ws)
    else .error .unknownCall

/-! ### Calls -/

/-- Layer 1, the signal layer. -/
def decodeSignal (op : Nibble) (ws : List Nibble) : Field Instr :=
  if op = 0x0 then .ok (.setLinesOutput, ws)
  else if op = 0x1 then andThen (takeFlag ws) fun z ws => .ok (.setLinesInput z, ws)
  else if op = 0x2 then andThen (takeFlag ws) fun a ws => .ok (.assertFrame a, ws)
  else if op = 0x3 then andThen (takeLevel ws) fun l ws => .ok (.setClock l, ws)
  else if op = 0x4 then .ok (.busInit, ws)
  else .error .unknownCall

/-- Layer 2, the nibble transport. -/
def decodeTransport (op : Nibble) (ws : List Nibble) : Field Instr :=
  if op = 0x0 then
    andThen (takeNibble ws) fun v ws =>
    andThen (takeFlag ws) fun f ws =>
    .ok (.writeNibble v f, ws)
  else if op = 0x1 then .ok (.readNibble, ws)
  else .error .unknownCall

/-- Layer 3, the bus cycles. -/
def decodeCycle (op : Nibble) (ws : List Nibble) : Field Instr :=
  if op = 0x0 then
    andThen (takeCount ws) fun n ws =>
    andThen (takeKind ws) fun k ws =>
    .ok (.sizeCode n k, ws)
  else if op = 0x1 then
    andThen (takeWord ws) fun a ws =>
    andThen (takeCount ws) fun n ws =>
    .ok (.readCycle a n, ws)
  else if op = 0x2 then
    andThen (takeWord ws) fun a ws =>
    andThen (takeByteList ws) fun bs ws =>
    .ok (.writeCycle a bs, ws)
  else .error .unknownCall

/-- Layer 4, the device operations. -/
def decodeDevice (op : Nibble) (ws : List Nibble) : Field Instr :=
  if op = 0x0 then
    andThen (takeByte ws) fun m ws =>
    andThen (takeByte ws) fun c ws =>
    .ok (.findDevice m c, ws)
  else if op = 0x1 then .ok (.readDeviceIds, ws)
  else if op = 0x2 then
    andThen (takeDescriptor ws) fun d ws =>
    andThen (takeFlag ws) fun f ws =>
    .ok (.executeUnlockSequence d f, ws)
  else if op = 0x3 then .ok (.readStatusRegister, ws)
  else if op = 0x4 then .ok (.waitForWriteComplete, ws)
  else .error .unknownCall

/-- Layer 5, the block API. -/
def decodeBlock (op : Nibble) (ws : List Nibble) : Field Instr :=
  if op = 0x0 then .ok (.identify, ws)
  else if op = 0x1 then .ok (.unlockForWrite, ws)
  else if op = 0x2 then .ok (.unlockForRead, ws)
  else if op = 0x3 then
    andThen (takeWord ws) fun a ws =>
    andThen (takeCount ws) fun n ws =>
    .ok (.readBlock a n, ws)
  else if op = 0x4 then
    andThen (takeWord ws) fun a ws =>
    andThen (takeByteList ws) fun bs ws =>
    .ok (.writeBlock a bs, ws)
  else .error .unknownCall

/-- The instruction a frame's words stand for. -/
def frameInstr : Frame → Instr
  | .read addr size => .readFrame addr size
  | .write addr data => .writeFrame addr data

/-- The instruction at the head of the words, and the words after it. Total: every list of words is
read as an instruction or refused with a reason. -/
def decodeCall : List Nibble → Field Instr
  | [] => .error .truncated
  | w :: ws =>
    if w = Config.startRead ∨ w = Config.startWrite then
      andThen (decodeFrame (w :: ws)) fun f ws =>
      .ok (frameInstr f, ws)
    else
      andThen (takeNibble ws) fun op ws =>
      if w = 0x1 then decodeSignal op ws
      else if w = 0x2 then decodeTransport op ws
      else if w = 0x3 then decodeCycle op ws
      else if w = 0x4 then decodeDevice op ws
      else if w = 0x5 then decodeBlock op ws
      else .error .unknownCall

/-- The instruction of a line: one instruction, then nothing but zero fill. -/
def decode (line : List Nibble) : Except DecodeError Instr :=
  match decodeCall line with
  | .ok (i, rest) => if rest.all (fun w => w == 0) then .ok i else .error .trailing
  | .error e => .error e

/-! ### Encoding -/

/-- A Boolean operand. -/
def putFlag (b : Bool) : List Nibble := [if b then 1 else 0]

/-- A byte, low nibble first (R55, R77). -/
def putByte (b : Byte) : List Nibble := [loNibble b, hiNibble b]

/-- The seven ADDR nibbles of an address, most significant first (R75). -/
def putFrameAddr (a : Addr) : List Nibble :=
  [addrNibble a 0, addrNibble a 1, addrNibble a 2, addrNibble a 3, addrNibble a 4, addrNibble a 5,
    addrNibble a 6]

/-- A 32-bit number, most significant nibble first. -/
def putWord (a : BitVec 32) : List Nibble := (a >>> 28).setWidth 4 :: putFrameAddr a

/-- The digits of a count of at most `fuel`. -/
def putDigits : Nat → Nat → List Nibble
  | 0, n => [BitVec.ofNat 4 n]
  | fuel + 1, n =>
    if n < 8 then [BitVec.ofNat 4 n]
    else BitVec.ofNat 4 (8 + n % 8) :: putDigits fuel (n / 8 - 1)

/-- A count or a length, of any size. -/
def putCount (n : Nat) : List Nibble := putDigits n n

/-- Bytes in order, each low nibble first. -/
def putBytes : List Byte → List Nibble
  | [] => []
  | b :: bs => loNibble b :: hiNibble b :: putBytes bs

/-- Nibble k of a code point, counted from the most significant of six. -/
def charNibble (c : Char) (k : Nat) : Nibble := (BitVec.ofNat 24 c.toNat >>> (20 - 4 * k)).setWidth 4

/-- Characters in order, six words each. -/
def putChars : List Char → List Nibble
  | [] => []
  | c :: cs =>
    [charNibble c 0, charNibble c 1, charNibble c 2, charNibble c 3, charNibble c 4, charNibble c 5]
      ++ putChars cs

/-- Pairs in order, ten words each. -/
def putPairs : List CmdPair → List Nibble
  | [] => []
  | p :: ps => putByte p.cmd ++ putWord p.addr ++ putPairs ps

/-- A device descriptor. -/
def putDescriptor (d : DeviceDescriptor) : List Nibble :=
  putByte d.mfr ++ putByte d.chip ++ putCount d.name.length ++ putChars d.name
    ++ putCount d.writeSeq.length ++ putPairs d.writeSeq
    ++ putCount d.readSeq.length ++ putPairs d.readSeq

/-- The ten header words of a frame (R71, R72, R129). -/
def putHeader (start : Nibble) (a : Addr) (code : Nibble) : List Nibble :=
  start :: Config.idselValue :: (putFrameAddr a ++ [code])

/-- The words of an instruction. -/
def encode : Instr → List Nibble
  | .setLinesOutput => [0x1, 0x0]
  | .setLinesInput z => [0x1, 0x1] ++ putFlag z
  | .assertFrame a => [0x1, 0x2] ++ putFlag a
  | .setClock l => [0x1, 0x3] ++ putFlag (bitOfLevel l)
  | .busInit => [0x1, 0x4]
  | .writeNibble v f => [0x2, 0x0, v] ++ putFlag f
  | .readNibble => [0x2, 0x1]
  | .sizeCode n k => [0x3, 0x0] ++ putCount n ++ putFlag (k == .memoryWrite)
  | .readCycle a n => [0x3, 0x1] ++ putWord a ++ putCount n
  | .writeCycle a bs => [0x3, 0x2] ++ putWord a ++ putCount bs.length ++ putBytes bs
  | .findDevice m c => [0x4, 0x0] ++ putByte m ++ putByte c
  | .readDeviceIds => [0x4, 0x1]
  | .executeUnlockSequence d f => [0x4, 0x2] ++ putDescriptor d ++ putFlag f
  | .readStatusRegister => [0x4, 0x3]
  | .waitForWriteComplete => [0x4, 0x4]
  | .identify => [0x5, 0x0]
  | .unlockForWrite => [0x5, 0x1]
  | .unlockForRead => [0x5, 0x2]
  | .readBlock a n => [0x5, 0x3] ++ putWord a ++ putCount n
  | .writeBlock a bs => [0x5, 0x4] ++ putWord a ++ putCount bs.length ++ putBytes bs
  | .readFrame a size => putHeader Config.startRead (wideAddr a) (readCode size)
  | .writeFrame a data =>
    putHeader Config.startWrite (wideAddr a) (writeCode data) ++ putBytes (dataBytes data)

/-! ### Words given as a number -/

/-- Words `k`, `k+1`, … of a number whose bit 0 is the least significant bit of the first word. -/
def wordsFrom (w : Nat) : Nat → Nat → List Nibble
  | _, 0 => []
  | k, n + 1 => BitVec.ofNat 4 (w / 2 ^ (4 * k)) :: wordsFrom w (k + 1) n

/-- The line a number of `nbits` bits is laid out as: its words, then zero words up to 32 words, which
is longer than any frame's words. -/
def lineOfNumber (nbits w : Nat) : List Nibble :=
  wordsFrom (w % 2 ^ nbits) 0 (max 32 ((nbits + 3) / 4))

/-- The instruction the decoder reads from an instruction whose bits are `w`, numbered as
spec/opcode_table.json numbers them. -/
def decodeTableWord (nbits w : Nat) : Option Instr :=
  match decode (lineOfNumber nbits w) with
  | .ok i => some i
  | .error _ => none

end Sys2Proof
end

