-- ==== Sys2Proof/Machine/State.lean ====
section
/-! DEFINITION. The state of the machine as plain data: the bus context of spec/10_state.md (R20 to
R41), the other two agents of R37 (the target, and the caller's calls and results), the reasons a run
stops, and the machine at process start (R43, R231). -/

namespace Sys2Proof.Machine

/-! ### Bus lines (R20, R21) -/

/-- A line's direction; `unknown` until the first `SetDir` (R21). -/
inductive LineDir where
  | unknown
  | set (d : Direction)
  deriving DecidableEq, Repr, Inhabited

/-- A line's output level; `unknown` until the first `WriteLevel` (R21). -/
inductive LineLvl where
  | unknown
  | set (l : Level)
  deriving DecidableEq, Repr, Inhabited

/-- One bus line (R21). -/
structure BusLine where
  dir : LineDir
  lvl : LineLvl
  deriving DecidableEq, Repr, Inhabited

/-- The eight bus lines (R20). -/
structure Lines where
  reset : BusLine
  lad0 : BusLine
  lad1 : BusLine
  lad2 : BusLine
  lad3 : BusLine
  lframe : BusLine
  lclk : BusLine
  we : BusLine
  deriving DecidableEq, Repr, Inhabited

/-! ### Phase register (R27) -/

/-- `ctx.phase` (R27, R139, R140). -/
inductive Phase where
  | idle
  | rc1 | rc2 | rc3 | rc4 | rc5 | rc6 | rc7 | rc8 | rc9 | rc10 | rc11 | rc12
  | wc1 | wc2 | wc3 | wc4 | wc5 | wc6 | wc7 | wc8 | wc9 | wc10 | wc11 | wc12
  | aborted
  deriving DecidableEq, Repr, Inhabited

/-! ### Errors, reports and results (R200) -/

/-- Which check a `SyncError` names (R200, R209). -/
inductive SyncCheck where
  | rsync
  | tar
  deriving DecidableEq, Repr, Inhabited

/-- The errors an operation returns to the caller (R200, R224). -/
inductive OpError where
  /-- code 1 (R201) -/
  | badBlockLength (kind : BusCycleKind) (length : Nat)
  /-- code 2 (R202, R203) -/
  | syncError (which : SyncCheck) (kind : BusCycleKind) (addr : Addr) (seen : Nibble)
  /-- code 4 (R205) -/
  | unsupportedDevice
  /-- code 7 (R208) -/
  | pollTimeout (addr : Addr) (status : Byte)
  deriving DecidableEq, Repr, Inhabited

/-- The entries of the report log (R35, R200). -/
inductive Report where
  /-- code 3 (R204) -/
  | turnaroundWarning (addr : Addr) (value : Nibble)
  /-- code 8 (R131) -/
  | diagSync (addr : Addr) (value : Nibble)
  deriving DecidableEq, Repr, Inhabited

/-- What an operation that returns hands the caller. -/
inductive OpValue where
  | unit
  /-- `readNibble`, and the code of `sizeCode` -/
  | nibble (v : Nibble)
  /-- `readCycle`: the bytes and the warning flag (R130) -/
  | cycle (bytes : List Byte) (warning : Bool)
  /-- `readBlock` (R176) -/
  | bytes (bytes : List Byte)
  /-- `readStatusRegister` (R171) -/
  | byte (b : Byte)
  /-- `readDeviceIds` and `identify` (R169, R173) -/
  | ids (mfr chip : Byte)
  /-- `findDevice` (R168) -/
  | device (d : Option DeviceDescriptor)
  deriving DecidableEq, Repr, Inhabited

/-- The outcome of a line: the operation's result or one error, never both (R90, R213). -/
inductive OpOutcome where
  | returned (v : OpValue)
  | raised (e : OpError)
  deriving DecidableEq, Repr, Inhabited

/-- The reasons the machine stops on an operation the spec describes. Both are the spec's own faults,
raised before any bus activity, and give the run no meaning (R206, R207, R224): stopping is safe. -/
inductive Fault where
  /-- code 5: a bus operation before the first `busInit` (R206), raised by `entryChecks` and by the
  unlock operations; safe -/
  | notPrepared
  /-- code 6: a bus operation after a fatal `SyncError` and before the next `busInit` (R207), raised by
  `entryChecks` and by the unlock operations; safe -/
  | busDesynced
  deriving DecidableEq, Repr, Inhabited

/-- The reasons the model has no meaning for a line. -/
inductive Refusal where
  /-- raised by an arm of `exec` for an instruction that has no meaning in the model; safe -/
  | notModelled (mnemonic : String)
  /-- raised by `step` when the caller's line is no instruction's words (R84, R85, R87, log 3); safe -/
  | undecodable (why : DecodeError)
  deriving DecidableEq, Repr

/-! ### The target agent (R37, R42) -/

/-- A byte memory over 28-bit addresses: the cells that differ from 0xFF, addresses strictly rising
(R69; log 16). -/
abbrev Memory := List Host.Cell

/-- The reference target of spec/20_memory.md R69. -/
structure RefTarget where
  mem : Memory
  mfr : Byte
  chip : Byte
  status : Byte
  statusMode : Bool
  deriving DecidableEq, Repr, Inhabited

/-- The target as the engine's other agent (R37; log 2). -/
inductive Target where
  /-- A target of which nothing is assumed: the answers it will give, slot by slot. Past the end of the
  list each answer is the free value `Config.targetAnswer` of the nibble log. -/
  | oracle (answers : List Nibble)
  /-- The reference target of R69. -/
  | reference (rt : RefTarget)
  deriving DecidableEq, Repr, Inhabited

/-! ### The state -/

/-- Everything the spec gives the machine, then the model's own fields. -/
@[ext]
structure State where
  /-- the eight bus lines (R20) -/
  lines : Lines
  /-- `ctx.addr` (R25) -/
  addr : Addr
  /-- `ctx.len` (R25) -/
  len : Nat
  /-- `ctx.kind` (R25) -/
  kind : BusCycleKind
  /-- `ctx.tx` (R25) -/
  tx : List Byte
  /-- `ctx.rx` (R25) -/
  rx : List Byte
  /-- `ctx.idx` (R25) -/
  idx : Nat
  /-- `ctx.lo` (R25) -/
  lo : Nibble
  /-- `ctx.sample` (R25) -/
  sample : Nibble
  /-- `ctx.warning` (R29) -/
  warning : Bool
  /-- `ctx.phase` (R27) -/
  phase : Phase
  /-- `ctx.desync` (R30) -/
  desync : Bool
  /-- `ctx.prepared` (R31) -/
  prepared : Bool
  /-- `ctx.diagnostic` (R32) -/
  diagnostic : Bool
  /-- `ctx.device` (R41) -/
  device : Option DeviceDescriptor
  /-- the configuration: the parameters of R12 (R39) -/
  params : Params
  /-- `ctx.trace` (R34) -/
  trace : List LineEvent
  /-- `ctx.nibbles` (R36) -/
  nibbles : List NibbleEvent
  /-- `ctx.reports` (R35) -/
  reports : List Report
  /-- the target agent (R37): the model's own field, log 2 -/
  target : Target
  /-- the lines the caller has yet to invoke, as words (R90): the model's own field, log 3 -/
  calls : List (List Nibble)
  /-- the outcomes of the lines so far (R90): the model's own field, log 6 -/
  results : List OpOutcome
  /-- the local `polls` of a `waitForWriteComplete` that is still running (R172), none when no operation
  is: the model's own field, log 7 -/
  polls : Option Nat
  deriving DecidableEq, Repr

/-- A line nothing has set since the process started (R21, R231). -/
def BusLine.unknown : BusLine := { dir := .unknown, lvl := .unknown }

/-- Every line `Unknown` / `Unknown` (R43). -/
def Lines.unknown : Lines :=
  { reset := .unknown, lad0 := .unknown, lad1 := .unknown, lad2 := .unknown, lad3 := .unknown
    lframe := .unknown, lclk := .unknown, we := .unknown }

/-- The engine as it is created with its parameters and the caller's choice of diagnostic mode (R43,
first column; R230, R231). The working registers are `Unknown` there: their values are log 1's. -/
def State.processStart (params : Params) (diagnostic : Bool) (target : Target)
    (calls : List (List Nibble)) : State :=
  { lines := .unknown
    addr := 0, len := 0, kind := .memoryRead, tx := [], rx := [], idx := 0, lo := 0, sample := 0
    warning := false
    phase := .idle, desync := false, prepared := false, diagnostic := diagnostic
    device := none, params := params
    trace := [], nibbles := [], reports := []
    target := target, calls := calls, results := [], polls := none }

/-- The machine right after reset: process start (R230, R231), with the OPEN parameters at their free
values (log 8, log 9), a target of which nothing is known (R44, log 2) and no call waiting (R234). -/
def State.reset : State := .processStart Config.params Config.diagnostic (.oracle []) []

end Sys2Proof.Machine
end

