-- ==== Sys2Proof/Machine/Memory.lean ====
section
/-! DEFINITION. The byte memory `M` of the reference target (spec/20_memory.md R69): 28-bit addresses,
initially all 0xFF. -/

namespace Sys2Proof.Machine

/-- What an address no cell lists reads as: 0xFF, `M`'s initial contents (R69). -/
def Memory.unlisted : Byte := 0xFF

/-- The canonical form: addresses strictly rising, 28 bits wide, no cell equal to what an unlisted
address reads as. -/
abbrev Memory.wf (m : Memory) : Prop :=
  m.Pairwise (fun c d => c.1 < d.1) ∧ ∀ c ∈ m, c.2 ≠ Memory.unlisted ∧ c.1 < 2 ^ 28

/-- The byte at an address given as a number. -/
def Memory.readNat : Memory → Nat → Byte
  | [], _ => Memory.unlisted
  | (k, b) :: m, a => if k = a then b else Memory.readNat m a

/-- Store a byte at an address given as a number, keeping the canonical form. -/
def Memory.writeNat : Memory → Nat → Byte → Memory
  | [], a, b => if b = Memory.unlisted then [] else [(a, b)]
  | (k, c) :: m, a, b =>
    if a < k then (if b = Memory.unlisted then (k, c) :: m else (a, b) :: (k, c) :: m)
    else if a = k then (if b = Memory.unlisted then m else (a, b) :: m)
    else (k, c) :: Memory.writeNat m a b

/-- `M[x]` (R69). -/
def Memory.read (m : Memory) (x : FrameAddr) : Byte := m.readNat x.toNat

/-- `M[x] <- b` (R69). -/
def Memory.write (m : Memory) (x : FrameAddr) (b : Byte) : Memory := m.writeNat x.toNat b

/-- Byte i of a multi-byte frame is stored at `M[a + i]` (R69). -/
def Memory.writeList (m : Memory) (a : FrameAddr) : List Byte → Memory
  | [] => m
  | b :: bs => Memory.writeList (m.write a b) (a + 1) bs

end Sys2Proof.Machine
end

