-- ==== Sys2Proof/Machine/Target.lean ====
section
/-! DEFINITION. What the target answers to a `readNibble` (spec/10_state.md R37). A target of which
nothing is assumed answers from its list, then freely (log 2). The reference target of
spec/20_memory.md R69 decodes the frame in progress from the nibble log (R92, R121) and answers it
slot by slot (log 15). -/

namespace Sys2Proof.Machine

/-! ### The target's view of a frame (R92, R121, R122) -/

/-- One more entry of a frame. What comes before any frame has begun belongs to none. -/
def extendFrame (frame : List NibbleEvent) (e : NibbleEvent) : List NibbleEvent :=
  match frame with
  | [] => []
  | f :: fs => f :: fs ++ [e]

/-- The entries of the log from the last `Host` entry with `f = true` on (R121), given the frame the
entries before these have begun; no entries where none has. -/
def frameEntries (frame : List NibbleEvent) : List NibbleEvent → List NibbleEvent
  | [] => frame
  | .host v true :: es => frameEntries [.host v true] es
  | e :: es => frameEntries (extendFrame frame e) es

/-- The frame in progress (R121): a slot with LFRAME asserted starts it (R92), and without one there is
none. -/
def currentFrame (log : List NibbleEvent) : List NibbleEvent := frameEntries [] log

/-- The host slots among some log entries, in order. -/
def hostSlots : List NibbleEvent → List Nibble
  | [] => []
  | .host v _ :: es => v :: hostSlots es
  | .target _ :: es => hostSlots es

/-- The target slots among some log entries, in order. -/
def targetSlots : List NibbleEvent → List Nibble
  | [] => []
  | .host _ _ :: es => targetSlots es
  | .target v :: es => v :: targetSlots es

/-- The frame the target has been sent, once its host slots are complete: START to DATA, then the one
host slot of the turnaround (R71, R72, R92). -/
def receivedFrame (log : List NibbleEvent) : Option Frame :=
  match decodeFrame (hostSlots (currentFrame log)) with
  | .ok (f, [_]) => some f
  | _ => none

/-! ### The reference target (R69) -/

/-- The reference target at first, with its ID bytes: `M` all 0xFF, `status` 0x00, `statusMode` false
(R69). -/
def RefTarget.initial (mfr chip : Byte) : RefTarget :=
  { mem := [], mfr := mfr, chip := chip, status := 0x00, statusMode := false }

/-- `B(x)` (R69). -/
def RefTarget.byteAt (p : Params) (rt : RefTarget) (x : FrameAddr) : Byte :=
  if rt.statusMode = true ∧ x = frameAddr p.statusAddr then rt.status
  else if x = frameAddr p.mfrIdAddr then rt.mfr
  else if x = frameAddr p.chipIdAddr then rt.chip
  else rt.mem.read x

/-- How many target slots a frame has (R71, R72). -/
def frameTargetSlots : Frame → Nat
  | .read _ size => 4 + 2 * readBytes size
  | .write _ _ => 4

/-- The reference target's answer in target slot `k` of a frame, counted from 0 (R69). -/
def RefTarget.answer (p : Params) (rt : RefTarget) : Frame → Nat → Option Nibble
  | .read a size, k =>
    if k = 0 then some 0xF
    else if k = 1 then some 0x0
    else if k < 2 + 2 * readBytes size then
      let b := rt.byteAt p (a + BitVec.ofNat 28 ((k - 2) / 2))
      some (if (k - 2) % 2 = 0 then loNibble b else hiNibble b)
    else if k < 4 + 2 * readBytes size then some 0xF
    else none
  | .write _ _, k =>
    if k = 1 then some 0x0
    else if k < 4 then some 0xF
    else none

/-- The reference target after a frame: a read clears `statusMode`; the status command selects the
status register; any other write is stored (R69). -/
def RefTarget.complete (p : Params) (rt : RefTarget) : Frame → RefTarget
  | .read _ _ => { rt with statusMode := false }
  | .write a data =>
    if a = frameAddr p.statusAddr ∧ data = .one Config.statusCmd then { rt with statusMode := true }
    else { rt with mem := rt.mem.writeList a (dataBytes data) }

/-- The reference target's answer and what it becomes, given the frame it has received and how many of
its slots it has answered. Its effect on itself is that of its frame's last slot (log 15). -/
def RefTarget.draw (p : Params) (rt : RefTarget) (log : List NibbleEvent) : Nibble × RefTarget :=
  match receivedFrame log with
  | none => (Config.targetAnswer log, rt)
  | some f =>
    let k := (targetSlots (currentFrame log)).length
    match rt.answer p f k with
    | none => (Config.targetAnswer log, rt)
    | some v => (v, if k + 1 = frameTargetSlots f then rt.complete p f else rt)

/-! ### Any target (R37) -/

/-- The nibble the target answers in its next slot, and the target after it. -/
def Target.draw (p : Params) (log : List NibbleEvent) : Target → Nibble × Target
  | .oracle (v :: vs) => (v, .oracle vs)
  | .oracle [] => (Config.targetAnswer log, .oracle [])
  | .reference rt => ((rt.draw p log).1, .reference (rt.draw p log).2)

/-- The target's answers in `k` slots in a row, each logged before the next (R122), and the target after
them. -/
def Target.draws (p : Params) : Nat → List NibbleEvent → Target → List Nibble × Target
  | 0, _, t => ([], t)
  | k + 1, log, t =>
    let (v, t) := t.draw p log
    let (vs, t) := Target.draws p k (log ++ [.target v]) t
    (v :: vs, t)

/-- What the reset pulse of `busInit` does to the target: unknown (R44), so nothing to a list of
answers that stands for any target; the reference target clears `statusMode` and keeps the rest
(R69). -/
def Target.resetPulse : Target → Target
  | .oracle answers => .oracle answers
  | .reference rt => .reference { rt with statusMode := false }

end Sys2Proof.Machine
end

