-- ==== Sys2Proof/Machine/Ops.lean ====
section
/-! DEFINITION. The named operations over the state that every family shares: the consumed digital-I/O
capability (spec/40_signal_layer.md R100), the logs, the working registers, what an operation can come
to, raising an error (spec/60_exceptions.md R209, R211) and handing the outcome to the caller. -/

namespace Sys2Proof.Machine

/-! ### Lines -/

/-- The line of a name (R20). -/
def Lines.get (ls : Lines) : Line → BusLine
  | .reset => ls.reset
  | .lad0 => ls.lad0
  | .lad1 => ls.lad1
  | .lad2 => ls.lad2
  | .lad3 => ls.lad3
  | .lframe => ls.lframe
  | .lclk => ls.lclk
  | .we => ls.we

/-- The lines with one of them replaced. -/
def Lines.put (ls : Lines) (b : BusLine) : Line → Lines
  | .reset => { ls with reset := b }
  | .lad0 => { ls with lad0 := b }
  | .lad1 => { ls with lad1 := b }
  | .lad2 => { ls with lad2 := b }
  | .lad3 => { ls with lad3 := b }
  | .lframe => { ls with lframe := b }
  | .lclk => { ls with lclk := b }
  | .we => { ls with we := b }

/-- `line.dir <- d`. -/
def Lines.turn (ls : Lines) (line : Line) (d : Direction) : Lines :=
  ls.put { ls.get line with dir := .set d } line

/-- `line.lvl <- l`. -/
def Lines.drive (ls : Lines) (line : Line) (l : Level) : Lines :=
  ls.put { ls.get line with lvl := .set l } line

/-! ### The consumed capability (R100) -/

/-- `SetDir(line, d)` (R100). -/
def setDir (line : Line) (d : Direction) (s : State) : State :=
  { s with lines := s.lines.turn line d, trace := s.trace ++ [.dir line d] }

/-- `WriteLevel(line, l)` (R100). -/
def writeLevel (line : Line) (l : Level) (s : State) : State :=
  { s with lines := s.lines.drive line l, trace := s.trace ++ [.lvl line l] }

/-- `ReadLevel(line)`, where `l` is the level the target's answer gives the line (R100; log 14). -/
def readLevel (line : Line) (l : Level) (s : State) : State :=
  { s with trace := s.trace ++ [.smp line l] }

/-- `Delay(T)` (R100, R242). -/
def delay (t : DelayName) (s : State) : State :=
  { s with trace := s.trace ++ [.wait t] }

/-! ### Logs, registers and flags -/

/-- `ctx.nibbles ++= [e]` (R36). -/
def logNibble (e : NibbleEvent) (s : State) : State :=
  { s with nibbles := s.nibbles ++ [e] }

/-- `report K(info)` (R14, R35). -/
def report (r : Report) (s : State) : State :=
  { s with reports := s.reports ++ [r] }

/-- `ctx.phase <- P` (R14, R27). -/
def enter (p : Phase) (s : State) : State := { s with phase := p }

/-- `ctx.sample <- v` (R118). -/
def setSample (v : Nibble) (s : State) : State := { s with sample := v }

/-- `ctx.lo <- v` (R130). -/
def setLo (v : Nibble) (s : State) : State := { s with lo := v }

/-- `ctx.idx <- i` (R130, R135). -/
def setIdx (i : Nat) (s : State) : State := { s with idx := i }

/-- `ctx.rx ++= [b]` (R130). -/
def pushRx (b : Byte) (s : State) : State := { s with rx := s.rx ++ [b] }

/-- `ctx.warning <- 1` (R133). -/
def setWarning (s : State) : State := { s with warning := true }

/-- `ctx.device <- d` (R173). -/
def setDevice (d : Option DeviceDescriptor) (s : State) : State := { s with device := d }

/-- The poll counter of a `waitForWriteComplete` still running (R172). -/
def setPolls (n : Nat) (s : State) : State := { s with polls := some n }

/-- The target after it has answered a slot, or after a reset pulse. -/
def setTarget (t : Target) (s : State) : State := { s with target := t }

/-- What a read cycle loads before its first phase (R130). -/
def loadRead (address : Addr) (length : Nat) (s : State) : State :=
  { s with addr := address, len := length, kind := .memoryRead, rx := [], warning := false }

/-- What a write cycle loads before its first phase (R135). -/
def loadWrite (address : Addr) (bytes : List Byte) (s : State) : State :=
  { s with addr := address, len := bytes.length, kind := .memoryWrite, tx := bytes }

/-- The last assignments of `busInit` (R109). -/
def markPrepared (s : State) : State :=
  { s with desync := false, prepared := true, device := none, phase := .idle }

/-- `ctx.desync <- true; ctx.phase <- Aborted` (R209). -/
def markDesynced (s : State) : State := { s with desync := true, phase := .aborted }

/-! ### What an operation comes to (R213, R224) -/

/-- An operation's end: a result, one error, or a fault that gives the run no meaning. -/
inductive Ran (α : Type) where
  | ok (a : α) (s : State)
  | raised (e : OpError) (s : State)
  | faulted (f : Fault)
  deriving DecidableEq, Repr

/-- One operation inside another: an error or a fault ends both, at once and with the same reason
(R211). -/
def Ran.bind {α β : Type} (r : Ran α) (k : α → State → Ran β) : Ran β :=
  match r with
  | .ok a s => k a s
  | .raised e s => .raised e s
  | .faulted f => .faulted f

/-- Taking a fatal error: what `abortSync` does (R209). It keeps every line and every log as they are
and ends the cycle with `SyncError`. There is no handler and no return from it (R214): the way back is
`busInit`. -/
def abortSync {α : Type} (which : SyncCheck) (kind : BusCycleKind) (address : Addr) (v : Nibble)
    (s : State) : Ran α :=
  .raised (.syncError which kind address v) (markDesynced s)

/-- The two checks every bus operation makes first (R128, R174, R212): `NotPrepared`, then
`BusDesynced`. -/
def readyChecks (s : State) : Ran Unit :=
  if s.prepared = false then .faulted .notPrepared
  else if s.desync = true then .faulted .busDesynced
  else .ok () s

/-- `sizeCode` as an operation: it raises `BadBlockLength` off its domain and changes no state (R126,
R127, R201). -/
def raiseSizeCode (length : Nat) (kind : BusCycleKind) (s : State) : Ran Nibble :=
  match sizeCode length kind with
  | some c => .ok c s
  | none => .raised (.badBlockLength kind length) s

/-- `entryChecks(length, kind)` (R128). -/
def entryChecks (length : Nat) (kind : BusCycleKind) (s : State) : Ran Nibble :=
  (readyChecks s).bind fun _ s => raiseSizeCode length kind s

/-! ### The caller (R90, R213) -/

/-- The operation has ended: the caller has its outcome, and nothing is running. -/
def record (o : OpOutcome) (s : State) : State :=
  { s with results := s.results ++ [o], polls := none }

/-- The step of an operation that has ended. An error is a value the engine returns; a fault ends the
run (R224, R90). -/
def finish {α : Type} (wrap : α → OpValue) (r : Ran α) : Host.Outcome State Fault Refusal :=
  match r with
  | .ok a s => .next (record (.returned (wrap a)) s)
  | .raised e s => .next (record (.raised e) s)
  | .faulted f => .fault f

/-! ### The codes of R200 -/

/-- The code of an error (R200). -/
def errorCode : OpError → Nat
  | .badBlockLength _ _ => 1
  | .syncError _ _ _ _ => 2
  | .unsupportedDevice => 4
  | .pollTimeout _ _ => 7

/-- The code of a report (R200). -/
def reportCode : Report → Nat
  | .turnaroundWarning _ _ => 3
  | .diagSync _ _ => 8

/-- The code of a fault (R200). -/
def faultCode : Fault → Nat
  | .notPrepared => 5
  | .busDesynced => 6

/-! ### Host calls (R100, R220) -/

/-- A call of the consumed capability, as the host platform receives it (R100). -/
inductive HostCall where
  | setDirection (pin : Nat) (d : Direction)
  | writeLevel (pin : Nat) (l : Level)
  /-- `readLevel(pin)` and the level it returned -/
  | readLevel (pin : Nat) (l : Level)
  /-- the timing provider's blocking delay (R219) -/
  | sleep (t : DelayName)
  deriving DecidableEq, Repr

/-- The host call an event of the trace is: `PIN_MAP` gives the line's pin (R20, R100). -/
def hostCall (m : PinMap) : LineEvent → HostCall
  | .dir line d => .setDirection (m.pin line) d
  | .lvl line l => .writeLevel (m.pin line) l
  | .smp line l => .readLevel (m.pin line) l
  | .wait t => .sleep t

end Sys2Proof.Machine
end

