-- ==== Sys2Proof/Machine/Signal.lean ====
section
/-! DEFINITION. The Bus Signal Layer (spec/40_signal_layer.md): its primitives, `busInit`, and the
meanings of the table's five signal rows. None of them checks `prepared`, `desync` or `phase` (R108),
and none fails. -/

namespace Sys2Proof.Machine

/-! ### Primitives -/

/-- `setLinesOutput()` (R102). -/
def setLinesOutput (s : State) : State :=
  setDir .lad3 .output (setDir .lad2 .output (setDir .lad1 .output (setDir .lad0 .output s)))

/-- The first half of `setLinesInput(true)`: all four lines are driven Low (R103). -/
def zeroLines (s : State) : State :=
  writeLevel .lad3 .low (writeLevel .lad2 .low (writeLevel .lad1 .low (writeLevel .lad0 .low s)))

/-- The four LAD lines switch to input (R103). -/
def releaseLines (s : State) : State :=
  setDir .lad3 .input (setDir .lad2 .input (setDir .lad1 .input (setDir .lad0 .input s)))

/-- `setLinesInput(zeroFirst)` (R103). -/
def setLinesInput (zeroFirst : Bool) (s : State) : State :=
  releaseLines (if zeroFirst then zeroLines s else s)

/-- The level of LFRAME for `active` (R104). -/
def frameLevel (active : Bool) : Level :=
  if active then Config.frameActiveLevel else flipLevel Config.frameActiveLevel

/-- `assertFrame(active)` (R104). -/
def assertFrame (active : Bool) (s : State) : State := writeLevel .lframe (frameLevel active) s

/-- `setClock(level)` (R105). -/
def setClock (level : Level) (s : State) : State := writeLevel .lclk level s

/-- `driveLAD(v)` (R106). -/
def driveLAD (v : Nibble) (s : State) : State :=
  writeLevel .lad3 (nibbleLevel v 3)
    (writeLevel .lad2 (nibbleLevel v 2)
      (writeLevel .lad1 (nibbleLevel v 1)
        (writeLevel .lad0 (nibbleLevel v 0) s)))

/-- The four `ReadLevel` calls of `sampleLAD`, the target driving `w` (R107). -/
def sampleLines (w : Nibble) (s : State) : State :=
  readLevel .lad3 (nibbleLevel w 3)
    (readLevel .lad2 (nibbleLevel w 2)
      (readLevel .lad1 (nibbleLevel w 1)
        (readLevel .lad0 (nibbleLevel w 0) s)))

/-- `sampleLAD()` (R107): the nibble formed from the levels read, and the state. The target answers one
nibble for the slot, bit i on LAD[i] (R15, R37). -/
def sampleLAD (s : State) : Nibble × State :=
  let (w, t) := s.target.draw s.params s.nibbles
  (nibbleOfLevels (nibbleLevel w 0) (nibbleLevel w 1) (nibbleLevel w 2) (nibbleLevel w 3),
    sampleLines w (setTarget t s))

/-! ### Pin preparation and reset (R109) -/

/-- `busInit()` up to the release of the reset line: every line is set, RESET is asserted (R109). -/
def prepareLines (s : State) : State :=
  let s := writeLevel .reset Config.resetActiveLevel (setDir .reset .output s)
  let s := setClock .low (setDir .lclk .output s)
  let s := assertFrame false (setDir .lframe .output s)
  let s := writeLevel .we s.params.weLevel (setDir .we .output s)
  delay .reset (setLinesOutput s)

/-- `busInit()` (R109): pin preparation, then the end of the target's reset pulse. -/
def busInit (s : State) : State :=
  let s := prepareLines s
  let s := delay .reset (writeLevel .reset (flipLevel Config.resetActiveLevel) s)
  markPrepared (setTarget s.target.resetPulse s)

/-! ### Meanings -/

/-- `setLinesOutput` (R102). -/
def execSetLinesOutput (s : State) : Host.Outcome State Fault Refusal :=
  finish (fun _ => .unit) (.ok () (setLinesOutput s))

/-- `setLinesInput` (R103). -/
def execSetLinesInput (zeroFirst : Bool) (s : State) : Host.Outcome State Fault Refusal :=
  finish (fun _ => .unit) (.ok () (setLinesInput zeroFirst s))

/-- `assertFrame` (R104). -/
def execAssertFrame (active : Bool) (s : State) : Host.Outcome State Fault Refusal :=
  finish (fun _ => .unit) (.ok () (assertFrame active s))

/-- `setClock` (R105). -/
def execSetClock (level : Level) (s : State) : Host.Outcome State Fault Refusal :=
  finish (fun _ => .unit) (.ok () (setClock level s))

/-- `busInit` (R109). -/
def execBusInit (s : State) : Host.Outcome State Fault Refusal :=
  finish (fun _ => .unit) (.ok () (busInit s))

end Sys2Proof.Machine
end

