-- ==== Sys2Proof/Machine/Transport.lean ====
section
/-! DEFINITION. The Nibble Transport (spec/41_nibble_transport.md): one host slot, one target slot. -/

namespace Sys2Proof.Machine

/-- `writeNibble(value, isFrameStart)` (R115): the clock rises before the nibble and the frame level
are driven (R116, R238). -/
def writeNibble (value : Nibble) (isFrameStart : Bool) (s : State) : State :=
  let s := setClock .high s
  let s := driveLAD value s
  let s := assertFrame isFrameStart s
  let s := delay .wSettle s
  let s := setClock .low s
  let s := delay .wSettle s
  logNibble (.host value isFrameStart) s

/-- `readNibble()` (R118). The nibble it returns is left in `ctx.sample`. -/
def readNibble (s : State) : State :=
  let s := delay .rSettle s
  let s := setClock .high s
  let s := delay .rSettle s
  let (v, s) := sampleLAD s
  let s := setClock .low s
  let s := setSample v s
  logNibble (.target v) s

/-- `discardNibble()` (R124): a `readNibble` whose value is not used. -/
def discardNibble (s : State) : State := readNibble s

/-! ### Meanings -/

/-- `writeNibble` (R115). -/
def execWriteNibble (value : Nibble) (isFrameStart : Bool) (s : State) :
    Host.Outcome State Fault Refusal :=
  finish (fun _ => .unit) (.ok () (writeNibble value isFrameStart s))

/-- `readNibble` (R118): it returns the value it leaves in `ctx.sample`. -/
def execReadNibble (s : State) : Host.Outcome State Fault Refusal :=
  finish .nibble (.ok (readNibble s).sample (readNibble s))

end Sys2Proof.Machine
end

