-- ==== Sys2Proof/Machine/Cycle.lean ====
section
/-! DEFINITION. The Bus Cycle State Machine (spec/42_bus_cycles.md): the header, the phases of the two
cycles in the order of R139 and R140, and the meanings of the table's three cycle rows. -/

namespace Sys2Proof.Machine

/-- The phase of a header slot: the read cycle's or the write cycle's, as START says (R129). -/
def headerPhase (start : Nibble) (rc wc : Phase) : Phase :=
  if start = Config.startRead then rc else wc

/-- The seven ADDR slots, most significant nibble first (R75, R129). -/
def sendAddress (address : Addr) (s : State) : State :=
  let s := writeNibble (addrNibble address 0) false s
  let s := writeNibble (addrNibble address 1) false s
  let s := writeNibble (addrNibble address 2) false s
  let s := writeNibble (addrNibble address 3) false s
  let s := writeNibble (addrNibble address 4) false s
  let s := writeNibble (addrNibble address 5) false s
  writeNibble (addrNibble address 6) false s

/-- `sendHeader(start, address, code)` (R129). -/
def sendHeader (start : Nibble) (address : Addr) (code : Nibble) (s : State) : State :=
  let s := writeNibble start true (enter (headerPhase start .rc2 .wc2) s)
  let s := writeNibble Config.idselValue false (enter (headerPhase start .rc3 .wc3) s)
  let s := sendAddress address (enter (headerPhase start .rc4 .wc4) s)
  writeNibble code false (enter (headerPhase start .rc5 .wc5) s)

/-! ### The read cycle (R130, R139) -/

/-- RC1: switch to output. -/
def rc1 (s : State) : State := setLinesOutput (enter .rc1 s)

/-- RC6: the host half of the turnaround. -/
def rc6 (s : State) : State := writeNibble Config.tarHost false (enter .rc6 s)

/-- RC7: switch to input, zeroing first (R240). -/
def rc7 (s : State) : State := setLinesInput true (enter .rc7 s)

/-- RC8: the float half of the turnaround, discarded. -/
def rc8 (s : State) : State := discardNibble (enter .rc8 s)

/-- RC9: RSYNC. A bad nibble is fatal, or in diagnostic mode reported (R131). -/
def rc9 (s : State) : Ran Unit :=
  let s := readNibble (enter .rc9 s)
  if rsyncAccepted s.sample then .ok () s
  else if s.diagnostic then .ok () (report (.diagSync s.addr s.sample) s)
  else abortSync .rsync .memoryRead s.addr s.sample s

/-- One byte of the data phase: its low nibble, then its high nibble (R132). -/
def readByte (s : State) : State :=
  let s := readNibble s
  let s := setLo s.sample s
  let s := readNibble s
  pushRx (byteOf s.sample s.lo) s

/-- The data phase's loop: `n` bytes, `ctx.idx` counting on from `i` (R130). -/
def readData : Nat → Nat → State → State
  | 0, _, s => s
  | n + 1, i, s => readData n (i + 1) (readByte (setIdx i s))

/-- RC10: `ctx.len` bytes. -/
def rc10 (s : State) : State := readData s.len 0 (enter .rc10 s)

/-- RC11: the trailing turnaround. A mismatch is a warning and a report, never an error (R133, R204). -/
def rc11 (s : State) : State :=
  let s := readNibble (enter .rc11 s)
  if tarExpected s.sample then s else report (.turnaroundWarning s.addr s.sample) (setWarning s)

/-- RC12: the regain-control pulse, discarded. -/
def rc12 (s : State) : State := discardNibble (enter .rc12 s)

/-- RC1 to RC8. -/
def readHead (code : Nibble) (s : State) : State :=
  rc8 (rc7 (rc6 (sendHeader Config.startRead s.addr code (rc1 s))))

/-- RC10 to the end. -/
def readTail (s : State) : State := enter .idle (rc12 (rc11 (rc10 s)))

/-- `readCycle(address, length)` (R130): the bytes and the warning flag. -/
def readCycle (address : Addr) (length : Nat) (s : State) : Ran (List Byte × Bool) :=
  (entryChecks length .memoryRead s).bind fun code s =>
  (rc9 (readHead code (loadRead address length s))).bind fun _ s =>
  .ok ((readTail s).rx, (readTail s).warning) (readTail s)

/-! ### The write cycle (R135, R140) -/

/-- WC1: switch to output. -/
def wc1 (s : State) : State := setLinesOutput (enter .wc1 s)

/-- The data phase's loop: each byte low nibble first, `ctx.idx` counting on from `i` (R77, R135). -/
def writeData : List Byte → Nat → State → State
  | [], _, s => s
  | b :: bs, i, s =>
    writeData bs (i + 1)
      (writeNibble (hiNibble b) false (writeNibble (loNibble b) false (setIdx i s)))

/-- WC6: the bytes of `ctx.tx`. -/
def wc6 (s : State) : State := writeData s.tx 0 (enter .wc6 s)

/-- WC7: the host half of the turnaround. -/
def wc7 (s : State) : State := writeNibble Config.tarHost false (enter .wc7 s)

/-- WC8: switch to input; whether it zeroes first is the OPEN `WRITE_TAR_ZERO_FIRST` (R240). -/
def wc8 (s : State) : State := setLinesInput s.params.writeTarZeroFirst (enter .wc8 s)

/-- WC9: the first regain pulse, discarded. -/
def wc9 (s : State) : State := discardNibble (enter .wc9 s)

/-- WC10: RSYNC, fatal in either mode (R136). -/
def wc10 (s : State) : Ran Unit :=
  let s := readNibble (enter .wc10 s)
  if rsyncAccepted s.sample then .ok () s
  else abortSync .rsync .memoryWrite s.addr s.sample s

/-- WC11: the trailing turnaround, fatal on a mismatch (R137). -/
def wc11 (s : State) : Ran Unit :=
  let s := readNibble (enter .wc11 s)
  if tarExpected s.sample then .ok () s
  else abortSync .tar .memoryWrite s.addr s.sample s

/-- WC12: the final regain pulse, discarded. -/
def wc12 (s : State) : State := discardNibble (enter .wc12 s)

/-- WC1 to WC9. -/
def writeHead (code : Nibble) (s : State) : State :=
  wc9 (wc8 (wc7 (wc6 (sendHeader Config.startWrite s.addr code (wc1 s)))))

/-- `writeCycle(address, bytes)` (R135). -/
def writeCycle (address : Addr) (bytes : List Byte) (s : State) : Ran Unit :=
  (entryChecks bytes.length .memoryWrite s).bind fun code s =>
  (wc10 (writeHead code (loadWrite address bytes s))).bind fun _ s =>
  (wc11 s).bind fun _ s =>
  .ok () (enter .idle (wc12 s))

/-! ### Meanings -/

/-- `sizeCode` (R126): pure. -/
def execSizeCode (length : Nat) (kind : BusCycleKind) (s : State) :
    Host.Outcome State Fault Refusal :=
  finish .nibble (raiseSizeCode length kind s)

/-- `readCycle` (R130). -/
def execReadCycle (address : Addr) (length : Nat) (s : State) :
    Host.Outcome State Fault Refusal :=
  finish (fun r => .cycle r.1 r.2) (readCycle address length s)

/-- `writeCycle` (R135). -/
def execWriteCycle (address : Addr) (bytes : List Byte) (s : State) :
    Host.Outcome State Fault Refusal :=
  finish (fun _ => .unit) (writeCycle address bytes s)

end Sys2Proof.Machine
end

