-- ==== Sys2Proof/Machine/Device.lean ====
section
/-! DEFINITION. The device registry, the command sequencer and status polling
(spec/43_device_ops.md R165 to R172). -/

namespace Sys2Proof.Machine

/-- `findDevice(mfr, chip)` over a registry: the first match, or none (R166, R168). -/
def findDevice (mfr chip : Byte) : List DeviceDescriptor → Option DeviceDescriptor
  | [] => none
  | d :: ds => if d.mfr = mfr ∧ d.chip = chip then some d else findDevice mfr chip ds

/-- `readDeviceIds()` (R169): the manufacturer's cycle, then the chip's. -/
def readDeviceIds (s : State) : Ran (Byte × Byte) :=
  (readCycle s.params.mfrIdAddr 1 s).bind fun m s =>
  (readCycle s.params.chipIdAddr 1 s).bind fun c s =>
  .ok (firstByte m.1, firstByte c.1) s

/-- The write cycles of a sequence, one per pair, in order (R170). -/
def runSequence : List CmdPair → State → Ran Unit
  | [], s => .ok () s
  | p :: ps, s => (writeCycle p.addr [p.cmd] s).bind fun _ s => runSequence ps s

/-- The sequence `forWrite` chooses (R170). -/
def sequenceOf (d : DeviceDescriptor) (forWrite : Bool) : List CmdPair :=
  if forWrite then d.writeSeq else d.readSeq

/-- `executeUnlockSequence(descriptor, forWrite)` (R170). -/
def executeUnlockSequence (d : DeviceDescriptor) (forWrite : Bool) (s : State) : Ran Unit :=
  runSequence (sequenceOf d forWrite) s

/-- `readStatusRegister()` (R171): the command, then the read back. -/
def readStatusRegister (s : State) : Ran Byte :=
  (writeCycle s.params.statusAddr [Config.statusCmd] s).bind fun _ s =>
  (readCycle s.params.statusAddr 1 s).bind fun b s =>
  .ok (firstByte b.1) s

/-- What follows a status read in `waitForWriteComplete` (R172), `polls` counting the busy reads before
it. The loop is left when the write has completed or the limit is reached; otherwise the operation
waits `T_POLL` and is still running: its next poll is the next step (log 7). -/
def afterPoll (polls : Nat) (status : Byte) (s : State) : Host.Outcome State Fault Refusal :=
  if statusBusy status = false then finish (fun _ => .unit) (.ok () s)
  else if pollsExhausted s.params.pollLimit (polls + 1) then
    finish (fun (_ : Unit) => .unit) (.raised (.pollTimeout s.params.statusAddr status) s)
  else .next (setPolls (polls + 1) (delay .poll s))

/-! ### Meanings -/

/-- `findDevice` (R168): pure. -/
def execFindDevice (mfr chip : Byte) (s : State) : Host.Outcome State Fault Refusal :=
  finish .device (.ok (findDevice mfr chip s.params.registry) s)

/-- `readDeviceIds` (R169). -/
def execReadDeviceIds (s : State) : Host.Outcome State Fault Refusal :=
  finish (fun r => .ids r.1 r.2) (readDeviceIds s)

/-- `executeUnlockSequence` (R170). -/
def execExecuteUnlockSequence (d : DeviceDescriptor) (forWrite : Bool) (s : State) :
    Host.Outcome State Fault Refusal :=
  finish (fun _ => .unit) (executeUnlockSequence d forWrite s)

/-- `readStatusRegister` (R171). -/
def execReadStatusRegister (s : State) : Host.Outcome State Fault Refusal :=
  finish .byte (readStatusRegister s)

/-- `waitForWriteComplete` (R172): one poll of its loop. An operation that is just starting has counted
no poll yet. -/
def execWaitForWriteComplete (s : State) : Host.Outcome State Fault Refusal :=
  match readStatusRegister s with
  | .ok status t => afterPoll (s.polls.getD 0) status t
  | .raised e t => finish (fun (_ : Unit) => .unit) (.raised e t)
  | .faulted f => .fault f

end Sys2Proof.Machine
end

