-- ==== Sys2Proof/Machine/Block.lean ====
section
/-! DEFINITION. The block API (spec/43_device_ops.md R173 to R177). -/

namespace Sys2Proof.Machine

/-- `identify()` (R173): an unmatched pair leaves no device, and is no error. -/
def identify (s : State) : Ran (Byte × Byte) :=
  (readDeviceIds s).bind fun ids s =>
  .ok ids (setDevice (findDevice ids.1 ids.2 s.params.registry) s)

/-- The unlock operations (R174, R175): `NotPrepared`, `BusDesynced`, `UnsupportedDevice`, then the
current device's sequence. -/
def unlock (forWrite : Bool) (s : State) : Ran Unit :=
  (readyChecks s).bind fun _ s =>
  match s.device with
  | none => .raised .unsupportedDevice s
  | some d => executeUnlockSequence d forWrite s

/-- `readBlock(address, length)` (R176): one read cycle; its flag is left to the report log. -/
def readBlock (address : Addr) (length : Nat) (s : State) : Ran (List Byte) :=
  (readCycle address length s).bind fun r s => .ok r.1 s

/-- `writeBlock(address, bytes)` (R177): one write cycle; no unlock, no wait, no device check. -/
def writeBlock (address : Addr) (bytes : List Byte) (s : State) : Ran Unit :=
  writeCycle address bytes s

/-! ### Meanings -/

/-- `identify` (R173). -/
def execIdentify (s : State) : Host.Outcome State Fault Refusal :=
  finish (fun r => .ids r.1 r.2) (identify s)

/-- `unlockForWrite` (R174). -/
def execUnlockForWrite (s : State) : Host.Outcome State Fault Refusal :=
  finish (fun _ => .unit) (unlock true s)

/-- `unlockForRead` (R175). -/
def execUnlockForRead (s : State) : Host.Outcome State Fault Refusal :=
  finish (fun _ => .unit) (unlock false s)

/-- `readBlock` (R176). -/
def execReadBlock (address : Addr) (length : Nat) (s : State) :
    Host.Outcome State Fault Refusal :=
  finish .bytes (readBlock address length s)

/-- `writeBlock` (R177). -/
def execWriteBlock (address : Addr) (bytes : List Byte) (s : State) :
    Host.Outcome State Fault Refusal :=
  finish (fun _ => .unit) (writeBlock address bytes s)

end Sys2Proof.Machine
end

