-- ==== Sys2Proof/Machine/Frames.lean ====
section
/-! DEFINITION. The two frame formats (spec/30_encoding.md R71, R72): the slot tables as data, the line
events of a slot, and the meanings of the table's two frame rows. A frame is the sequence of slots one
bus cycle puts on LAD (R70), so running a frame is running the cycle that emits it (log 5). -/

namespace Sys2Proof.Machine

/-! ### The slot tables as data -/

/-- A host slot of a frame's table: its nibble, with LFRAME asserted in slot 0 only (R83). -/
def hostEntries : List Nibble → List NibbleEvent
  | [] => []
  | v :: vs => .host v true :: vs.map (fun w => .host w false)

/-- The host slots of a read frame: slots 0 to 10 of R71. -/
def readFrameHost (a : Addr) (code : Nibble) : List Nibble :=
  putHeader Config.startRead a code ++ [Config.tarHost]

/-- The host slots of a write frame: slots 0 to 10 + 2N of R72. -/
def writeFrameHost (a : Addr) (code : Nibble) (bytes : List Byte) : List Nibble :=
  putHeader Config.startWrite a code ++ putBytes bytes ++ [Config.tarHost]

/-- The target slots of a read frame: discarded pulse, RSYNC, data, trailing turnaround, regain pulse
(R71). -/
def readFrameTarget (x rsync : Nibble) (bytes : List Byte) (t y : Nibble) : List Nibble :=
  [x, rsync] ++ putBytes bytes ++ [t, y]

/-- The line events of a host slot (R115). -/
def hostSlotEvents (v : Nibble) (f : Bool) : List LineEvent :=
  [.lvl .lclk .high,
    .lvl .lad0 (nibbleLevel v 0), .lvl .lad1 (nibbleLevel v 1),
    .lvl .lad2 (nibbleLevel v 2), .lvl .lad3 (nibbleLevel v 3),
    .lvl .lframe (frameLevel f), .wait .wSettle, .lvl .lclk .low, .wait .wSettle]

/-- The line events of a target slot (R118). -/
def targetSlotEvents (v : Nibble) : List LineEvent :=
  [.wait .rSettle, .lvl .lclk .high, .wait .rSettle,
    .smp .lad0 (nibbleLevel v 0), .smp .lad1 (nibbleLevel v 1),
    .smp .lad2 (nibbleLevel v 2), .smp .lad3 (nibbleLevel v 3), .lvl .lclk .low]

/-- The line events of an entry of the nibble log. -/
def slotEvents : NibbleEvent → List LineEvent
  | .host v f => hostSlotEvents v f
  | .target v => targetSlotEvents v

/-- The line events of `setLinesOutput` (R102). -/
def outputEvents : List LineEvent :=
  [.dir .lad0 .output, .dir .lad1 .output, .dir .lad2 .output, .dir .lad3 .output]

/-- The line events of `setLinesInput` (R103). -/
def inputEvents (zeroFirst : Bool) : List LineEvent :=
  (if zeroFirst then [.lvl .lad0 .low, .lvl .lad1 .low, .lvl .lad2 .low, .lvl .lad3 .low] else [])
    ++ [.dir .lad0 .input, .dir .lad1 .input, .dir .lad2 .input, .dir .lad3 .input]

/-- The line events of a cycle: the switch to output, its host slots, the switch to input, the target
slots it clocked (R139, R140). -/
def cycleEvents (zeroFirst : Bool) (hosts : List NibbleEvent) (targets : List Nibble) :
    List LineEvent :=
  outputEvents ++ hosts.flatMap slotEvents ++ inputEvents zeroFirst ++ targets.flatMap targetSlotEvents

/-- The line events of `busInit`, in the order of R109 (vector L2.1.8). -/
def busInitEvents (we : Level) : List LineEvent :=
  [.dir .reset .output, .lvl .reset Config.resetActiveLevel,
    .dir .lclk .output, .lvl .lclk .low,
    .dir .lframe .output, .lvl .lframe (frameLevel false),
    .dir .we .output, .lvl .we we] ++ outputEvents ++
  [.wait .reset, .lvl .reset (flipLevel Config.resetActiveLevel), .wait .reset]

/-! ### Meanings -/

/-- `READ_FRAME` (R71): the read cycle with the frame's address and size. -/
def execReadFrame (addr : FrameAddr) (size : ReadLength) (s : State) :
    Host.Outcome State Fault Refusal :=
  finish (fun r => .cycle r.1 r.2) (readCycle (wideAddr addr) (readBytes size) s)

/-- `WRITE_FRAME` (R72): the write cycle with the frame's address and data. -/
def execWriteFrame (addr : FrameAddr) (data : WriteData) (s : State) :
    Host.Outcome State Fault Refusal :=
  finish (fun _ => .unit) (writeCycle (wideAddr addr) (dataBytes data) s)

end Sys2Proof.Machine
end

