-- ==== Sys2Proof/Machine/Dispatch.lean ====
section
/-! DEFINITION. The meaning of each instruction: one arm per constructor, each one call. -/

namespace Sys2Proof.Machine

def exec (i : Instr) (s : State) : Host.Outcome State Fault Refusal :=
  match i with
  | .setLinesOutput => Sys2Proof.Machine.execSetLinesOutput s
  | .setLinesInput zeroFirst => Sys2Proof.Machine.execSetLinesInput zeroFirst s
  | .assertFrame active => Sys2Proof.Machine.execAssertFrame active s
  | .setClock level => Sys2Proof.Machine.execSetClock level s
  | .busInit => Sys2Proof.Machine.execBusInit s
  | .writeNibble value isFrameStart => Sys2Proof.Machine.execWriteNibble value isFrameStart s
  | .readNibble => Sys2Proof.Machine.execReadNibble s
  | .sizeCode length kind => Sys2Proof.Machine.execSizeCode length kind s
  | .readCycle address length => Sys2Proof.Machine.execReadCycle address length s
  | .writeCycle address bytes => Sys2Proof.Machine.execWriteCycle address bytes s
  | .findDevice mfr chip => Sys2Proof.Machine.execFindDevice mfr chip s
  | .readDeviceIds => Sys2Proof.Machine.execReadDeviceIds s
  | .executeUnlockSequence descriptor forWrite => Sys2Proof.Machine.execExecuteUnlockSequence descriptor forWrite s
  | .readStatusRegister => Sys2Proof.Machine.execReadStatusRegister s
  | .waitForWriteComplete => Sys2Proof.Machine.execWaitForWriteComplete s
  | .identify => Sys2Proof.Machine.execIdentify s
  | .unlockForWrite => Sys2Proof.Machine.execUnlockForWrite s
  | .unlockForRead => Sys2Proof.Machine.execUnlockForRead s
  | .readBlock address length => Sys2Proof.Machine.execReadBlock address length s
  | .writeBlock address bytes => Sys2Proof.Machine.execWriteBlock address bytes s
  | .readFrame addr size => Sys2Proof.Machine.execReadFrame addr size s
  | .writeFrame addr data => Sys2Proof.Machine.execWriteFrame addr data s

end Sys2Proof.Machine
end

