-- ==== Sys2Proof/Machine/Fetch.lean ====
section
/-! DEFINITION. How the caller's lines come to the engine (spec/30_encoding.md R90, spec/10_state.md
R38; log 3, log 7). -/

namespace Sys2Proof.Machine

/-- The instruction of the caller's next line, if there is a line. -/
def nextCall (s : State) : Option (Except DecodeError Instr) :=
  match s.calls with
  | [] => none
  | line :: _ => some (decode line)

/-- After a line's operation has run: each line runs once (R90), so the line is done with, unless its
operation is still running (a `waitForWriteComplete` between two polls, R172). -/
def retire (s : State) : State :=
  match s.polls with
  | none => { s with calls := s.calls.tail }
  | some _ => s

/-- The machine with one more line, before all others. -/
def pushCall (line : List Nibble) (s : State) : State := { s with calls := line :: s.calls }

end Sys2Proof.Machine
end

