-- ==== Sys2Proof/Machine/Step.lean ====
section
/-! DEFINITION. One step of the machine: the caller's next line is decoded and its operation run to its
end (spec/20_memory.md R62), or one poll of a `waitForWriteComplete` (log 7). -/

namespace Sys2Proof.Machine

/-- One step. With no line waiting, the engine waits for the caller's next operation (R234; log 10). -/
def step (s : State) : Host.Outcome State Fault Refusal :=
  match nextCall s with
  | none => .next s
  | some (.error e) => .refused (.undecodable e)
  | some (.ok i) =>
    match exec i s with
    | .next t => .next (retire t)
    | .fault f => .fault f
    | .refused r => .refused r

/-- `s` with the instruction whose bits are `w` as the caller's next line: the very next step runs it
(log 3, log 4). -/
def State.withFetchWord (s : State) (nbits w : Nat) : State := pushCall (lineOfNumber nbits w) s

end Sys2Proof.Machine
end

