-- ==== Sys2Proof/Machine/Asm.lean ====
section
/-! DEFINITION. The textual syntax of programs (spec/30_encoding.md R90) and the expansions of its
pseudo-operations (R91). It is a notation for the caller's lines, not part of the hardware (D23). -/

namespace Sys2Proof.Machine

/-! ### Characters and numbers -/

/-- A blank inside a line. -/
def isBlank (c : Char) : Bool := c == ' ' || c == '\t'

/-- Without the blanks at either end. -/
def trimBlanks (cs : List Char) : List Char :=
  ((cs.dropWhile isBlank).reverse.dropWhile isBlank).reverse

/-- The text before a comment: `;` starts one (R90). -/
def stripComment (cs : List Char) : List Char := cs.takeWhile (fun c => c != ';')

/-- The value of a digit, in base 16. -/
def digitValue (c : Char) : Option Nat :=
  if '0'.toNat ≤ c.toNat ∧ c.toNat ≤ '9'.toNat then some (c.toNat - '0'.toNat)
  else if 'A'.toNat ≤ c.toNat ∧ c.toNat ≤ 'F'.toNat then some (c.toNat - 'A'.toNat + 10)
  else if 'a'.toNat ≤ c.toNat ∧ c.toNat ≤ 'f'.toNat then some (c.toNat - 'a'.toNat + 10)
  else none

/-- Digits to a number, most significant first; none where a character is no digit of the base. -/
def digitsValue (base : Nat) : Nat → List Char → Option Nat
  | acc, [] => some acc
  | acc, c :: cs =>
    match digitValue c with
    | some d => if d < base then digitsValue base (base * acc + d) cs else none
    | none => none

/-- A number: hex with a `0x` prefix (R90). The programs of 95_test_vectors.md also write lengths
without the prefix; such digits are read as decimal (log 17). -/
def parseNumber : List Char → Option Nat
  | '0' :: 'x' :: c :: cs => digitsValue 16 0 (c :: cs)
  | c :: cs => digitsValue 10 0 (c :: cs)
  | [] => none

/-- The arguments between the commas. -/
def splitCommas : List Char → List (List Char)
  | [] => [[]]
  | c :: cs =>
    if c = ',' then [] :: splitCommas cs
    else
      match splitCommas cs with
      | a :: rest => (c :: a) :: rest
      | [] => [[c]]

/-- Every argument as a number. -/
def parseNumbers : List (List Char) → Option (List Nat)
  | [] => some []
  | a :: rest =>
    match parseNumber (trimBlanks a), parseNumbers rest with
    | some n, some ns => some (n :: ns)
    | _, _ => none

/-- The arguments of a line: none, or numbers with commas between. -/
def parseArgs (cs : List Char) : Option (List Nat) :=
  if trimBlanks cs = [] then some [] else parseNumbers (splitCommas cs)

/-- A number that is an address (R13). -/
def asAddr (n : Nat) : Option Addr := if n < 2 ^ 32 then some (BitVec.ofNat 32 n) else none

/-- Numbers that are bytes (R13). -/
def asBytes : List Nat → Option (List Byte)
  | [] => some []
  | n :: ns =>
    match asBytes ns with
    | some bs => if n < 256 then some (BitVec.ofNat 8 n :: bs) else none
    | none => none

/-! ### Lines -/

/-- What a line's text stands for. -/
inductive AsmLine where
  /-- nothing but blanks and a comment -/
  | empty
  | op (i : Instr)
  /-- no line of the syntax -/
  | bad
  deriving DecidableEq, Repr

/-- The operation of a mnemonic and its arguments (R90). -/
def asmOperation (mnemonic : List Char) (args : List Nat) : AsmLine :=
  if mnemonic = ['R', 'D'] then
    match args with
    | [a, n] =>
      match asAddr a with
      | some addr => .op (.readBlock addr n)
      | none => .bad
    | _ => .bad
  else if mnemonic = ['W', 'R'] then
    match args with
    | a :: b :: bs =>
      match asAddr a, asBytes (b :: bs) with
      | some addr, some bytes => .op (.writeBlock addr bytes)
      | _, _ => .bad
    | _ => .bad
  else if args ≠ [] then .bad
  else if mnemonic = ['I', 'N', 'I', 'T'] then .op .busInit
  else if mnemonic = ['I', 'D'] then .op .identify
  else if mnemonic = ['U', 'N', 'L', 'O', 'C', 'K', 'W'] then .op .unlockForWrite
  else if mnemonic = ['U', 'N', 'L', 'O', 'C', 'K', 'R'] then .op .unlockForRead
  else if mnemonic = ['S', 'T', 'A', 'T', 'U', 'S'] then .op .readStatusRegister
  else if mnemonic = ['W', 'A', 'I', 'T', 'W', 'R'] then .op .waitForWriteComplete
  else .bad

/-- One line of a program (R90). -/
def asmLine (text : List Char) : AsmLine :=
  let cs := trimBlanks (stripComment text)
  if cs = [] then .empty
  else
    match parseArgs (cs.dropWhile (fun c => !isBlank c)) with
    | some args => asmOperation (cs.takeWhile (fun c => !isBlank c)) args
    | none => .bad

/-- The caller's lines for a program's lines, as words; none if some line is bad. -/
def assemble : List (List Char) → Option (List (List Nibble))
  | [] => some []
  | text :: texts =>
    match asmLine text, assemble texts with
    | .empty, some lines => some lines
    | .op i, some lines => some (encode i :: lines)
    | _, _ => none

/-! ### Text of an operation -/

/-- The hex digit of a nibble. -/
def hexChar (v : Nibble) : Char :=
  if v.toNat < 10 then Char.ofNat ('0'.toNat + v.toNat) else Char.ofNat ('A'.toNat + (v.toNat - 10))

/-- A number of any size as text. -/
def hexNumber (n : Nat) : List Char := ['0', 'x'] ++ Nat.toDigits 16 n

/-- A 32-bit number as text. -/
def hexWord (a : BitVec 32) : List Char := ['0', 'x'] ++ (putWord a).map hexChar

/-- A byte as text. -/
def hexByte (b : Byte) : List Char := ['0', 'x', hexChar (hiNibble b), hexChar (loNibble b)]

/-- Bytes as further arguments. -/
def hexBytes : List Byte → List Char
  | [] => []
  | b :: bs => [',', ' '] ++ hexByte b ++ hexBytes bs

/-- The line of an operation that the syntax names (R90). -/
def asmText : Instr → Option (List Char)
  | .busInit => some ['I', 'N', 'I', 'T']
  | .readBlock a n => some (['R', 'D', ' '] ++ hexWord a ++ [',', ' '] ++ hexNumber n)
  | .writeBlock a bs => if bs = [] then none else some (['W', 'R', ' '] ++ hexWord a ++ hexBytes bs)
  | .identify => some ['I', 'D']
  | .unlockForWrite => some ['U', 'N', 'L', 'O', 'C', 'K', 'W']
  | .unlockForRead => some ['U', 'N', 'L', 'O', 'C', 'K', 'R']
  | .readStatusRegister => some ['S', 'T', 'A', 'T', 'U', 'S']
  | .waitForWriteComplete => some ['W', 'A', 'I', 'T', 'W', 'R']
  | .setLinesOutput => none
  | .setLinesInput _ => none
  | .assertFrame _ => none
  | .setClock _ => none
  | .writeNibble _ _ => none
  | .readNibble => none
  | .sizeCode _ _ => none
  | .readCycle _ _ => none
  | .writeCycle _ _ => none
  | .findDevice _ _ => none
  | .readDeviceIds => none
  | .executeUnlockSequence _ _ => none
  | .readFrame _ _ => none
  | .writeFrame _ _ => none

/-! ### Pseudo-operations (R91) -/

/-- `ID`'s cycles: `RD MFR_ID_ADDR, 1` then `RD CHIP_ID_ADDR, 1` (R91). -/
def expandId (p : Params) : List Instr := [.readBlock p.mfrIdAddr 1, .readBlock p.chipIdAddr 1]

/-- `UNLOCKW`'s cycles: one `WR a, c` per pair (c, a) of the sequence (R91). -/
def expandSequence : List CmdPair → List Instr
  | [] => []
  | p :: ps => .writeBlock p.addr [p.cmd] :: expandSequence ps

/-- `STATUS`'s cycles: `WR STATUS_ADDR, 0x70` then `RD STATUS_ADDR, 1` (R91). -/
def expandStatus (p : Params) : List Instr :=
  [.writeBlock p.statusAddr [Config.statusCmd], .readBlock p.statusAddr 1]

end Sys2Proof.Machine
end

