-- ==== Sys2Proof/Machine/Phases.lean ====
section
/-! DEFINITION. The phase register as a machine of its own (spec/10_state.md R27, R28, and the phase
tables R139 and R140 of spec/42_bus_cycles.md): one phase's action, then the move to the next phase.
It reads everything it needs from the working registers. The cycles of Machine/Cycle.lean run all
phases in one go; that the two agree is a statement of the package. -/

namespace Sys2Proof.Machine

/-- RC5 and WC5: the size code of the cycle that is running. -/
def sendSize (next : Phase) (s : State) : Ran Unit :=
  (raiseSizeCode s.len s.kind s).bind fun code s => .ok () (enter next (writeNibble code false s))

/-- RC10 and WC6 run once per byte: on to the next byte, or to the next phase (R28). -/
def nextByte (next : Phase) (s : State) : State :=
  if s.idx + 1 < s.len then setIdx (s.idx + 1) s else enter next s

/-- WC6's pair of slots for the current byte, low nibble first. -/
def sendByte (b : Byte) (s : State) : State :=
  writeNibble (hiNibble b) false (writeNibble (loNibble b) false s)

/-- The current phase's action and the move to the next phase. `Idle` and `Aborted` stay (R28). -/
def phaseStep (s : State) : Ran Unit :=
  match s.phase with
  | .idle => .ok () s
  | .rc1 => .ok () (enter .rc2 (setLinesOutput s))
  | .rc2 => .ok () (enter .rc3 (writeNibble Config.startRead true s))
  | .rc3 => .ok () (enter .rc4 (writeNibble Config.idselValue false s))
  | .rc4 => .ok () (enter .rc5 (sendAddress s.addr s))
  | .rc5 => sendSize .rc6 s
  | .rc6 => .ok () (enter .rc7 (writeNibble Config.tarHost false s))
  | .rc7 => .ok () (enter .rc8 (setLinesInput true s))
  | .rc8 => .ok () (enter .rc9 (discardNibble s))
  | .rc9 => (rc9 s).bind fun _ s => .ok () (enter .rc10 (setIdx 0 s))
  | .rc10 => .ok () (nextByte .rc11 (readByte s))
  | .rc11 => .ok () (enter .rc12 (rc11 s))
  | .rc12 => .ok () (enter .idle (discardNibble s))
  | .wc1 => .ok () (enter .wc2 (setLinesOutput s))
  | .wc2 => .ok () (enter .wc3 (writeNibble Config.startWrite true s))
  | .wc3 => .ok () (enter .wc4 (writeNibble Config.idselValue false s))
  | .wc4 => .ok () (enter .wc5 (sendAddress s.addr s))
  | .wc5 => (sendSize .wc6 s).bind fun _ s => .ok () (setIdx 0 s)
  | .wc6 => .ok () (nextByte .wc7 (sendByte (s.tx.getD s.idx 0x00) s))
  | .wc7 => .ok () (enter .wc8 (writeNibble Config.tarHost false s))
  | .wc8 => .ok () (enter .wc9 (setLinesInput s.params.writeTarZeroFirst s))
  | .wc9 => .ok () (enter .wc10 (discardNibble s))
  | .wc10 => (wc10 s).bind fun _ s => .ok () (enter .wc11 s)
  | .wc11 => (wc11 s).bind fun _ s => .ok () (enter .wc12 s)
  | .wc12 => .ok () (enter .idle (discardNibble s))
  | .aborted => .ok () s

/-- `n` phases, one after another; an error ends them. -/
def runPhases : Nat → State → Ran Unit
  | 0, s => .ok () s
  | n + 1, s => (phaseStep s).bind fun _ s => runPhases n s

end Sys2Proof.Machine
end

