-- ==== Sys2Proof/Safety.lean ====
section
/-! DEFINITION. What counts as a good state and a good run, in the terms the statements use. -/

namespace Sys2Proof.Machine

/-! ### What a cycle leaves (R134, R138, R142, R209)

The state a cycle leaves when the target gives the answers named, as the rules say it field by field.
They are what the package's statements compare `exec` with; no meaning calls them. -/

/-- The size code of a legal length. -/
def codeOf (length : Nat) (kind : BusCycleKind) : Nibble := (sizeCode length kind).getD 0x0

/-- The lines after a cycle's switch to input and any target slot: LAD input at the level `l` it was
last driven to, LFRAME deasserted, LCLK Low, RESET and WE as they were (R134, R138, R209). -/
def linesAfterCycle (l : Level) (ls : Lines) : Lines :=
  { ls with
    lad0 := ⟨.set .input, .set l⟩, lad1 := ⟨.set .input, .set l⟩
    lad2 := ⟨.set .input, .set l⟩, lad3 := ⟨.set .input, .set l⟩
    lframe := { ls.lframe with lvl := .set .high }
    lclk := { ls.lclk with lvl := .set .low } }

/-- The level LAD is left at by a write cycle: Low if it zeroes first, else the `0xF` of the turnaround
(R103). -/
def writeRestLevel (p : Params) : Level := if p.writeTarZeroFirst then .low else .high

/-- A finished read cycle (R130, R131, R133, R134): RSYNC `r`, the bytes, the trailing turnaround `t`,
and the values `x` and `y` of the discarded pulses; `tgt` is the target after its answers. -/
def readDone (a : Addr) (bytes : List Byte) (x r t y : Nibble) (tgt : Target) (s : State) :
    State :=
  let hosts := hostEntries (readFrameHost a (codeOf bytes.length .memoryRead))
  let targets := readFrameTarget x r bytes t y
  { s with
    lines := linesAfterCycle .low s.lines
    addr := a, len := bytes.length, kind := .memoryRead, rx := bytes
    idx := bytes.length - 1, lo := loNibble (bytes.getLastD 0x00), sample := y
    warning := !(tarExpected t), phase := .idle
    trace := s.trace ++ cycleEvents true hosts targets
    nibbles := s.nibbles ++ hosts ++ targets.map .target
    reports := s.reports ++ (if rsyncAccepted r then [] else [.diagSync a r])
      ++ (if tarExpected t then [] else [.turnaroundWarning a t])
    target := tgt }

/-- A read cycle ended by a fatal RSYNC `r` (R131, R142, R209): 13 slots, no data. -/
def readAborted (a : Addr) (length : Nat) (x r : Nibble) (tgt : Target) (s : State) : State :=
  let hosts := hostEntries (readFrameHost a (codeOf length .memoryRead))
  { s with
    lines := linesAfterCycle .low s.lines
    addr := a, len := length, kind := .memoryRead, rx := [], sample := r
    warning := false, phase := .aborted, desync := true
    trace := s.trace ++ cycleEvents true hosts [x, r]
    nibbles := s.nibbles ++ hosts ++ [.target x, .target r]
    target := tgt }

/-- A write cycle that has clocked the given target slots, before its end (R135, R140). -/
def writeSent (a : Addr) (bytes : List Byte) (targets : List Nibble) (tgt : Target)
    (s : State) : State :=
  let hosts := hostEntries (writeFrameHost a (codeOf bytes.length .memoryWrite) bytes)
  { s with
    lines := linesAfterCycle (writeRestLevel s.params) s.lines
    addr := a, len := bytes.length, kind := .memoryWrite, tx := bytes
    idx := bytes.length - 1, sample := targets.getLastD 0x0
    trace := s.trace ++ cycleEvents s.params.writeTarZeroFirst hosts targets
    nibbles := s.nibbles ++ hosts ++ targets.map .target
    target := tgt }

/-- A finished write cycle (R135, R138): RSYNC `0x0`, trailing turnaround `0xF`. -/
def writeDone (a : Addr) (bytes : List Byte) (x y : Nibble) (tgt : Target) (s : State) : State :=
  enter .idle (writeSent a bytes [x, 0x0, 0xF, y] tgt s)

/-- A write cycle ended by a fatal `SyncError` after the given target slots (R136, R137, R209). -/
def writeAborted (a : Addr) (bytes : List Byte) (targets : List Nibble) (tgt : Target)
    (s : State) : State :=
  markDesynced (writeSent a bytes targets tgt s)

/-! ### What the target answers

Any target fits these: a list of answers, the free values past its end, or the reference target. -/

/-- The target answers `vs` in the slots that follow a read cycle's host slots, and is `tgt` after them. -/
def State.readAnswers (a : Addr) (length : Nat) (vs : List Nibble) (tgt : Target) (s : State) : Prop :=
  s.target.draws s.params vs.length
    (s.nibbles ++ hostEntries (readFrameHost a (codeOf length .memoryRead))) = (vs, tgt)

/-- The target answers `vs` in the slots that follow a write cycle's host slots, and is `tgt` after
them. -/
def State.writeAnswers (a : Addr) (bytes : List Byte) (vs : List Nibble) (tgt : Target) (s : State) :
    Prop :=
  s.target.draws s.params vs.length
    (s.nibbles ++ hostEntries (writeFrameHost a (codeOf bytes.length .memoryWrite) bytes)) = (vs, tgt)

/-- With these answers a write cycle ends in a `SyncError` of this check, on this nibble: a bad RSYNC
(R136), or after a good one a bad trailing turnaround (R137). -/
def writeEndsAt (vs : List Nibble) (check : SyncCheck) (v : Nibble) : Prop :=
  (∃ x, vs = [x, v] ∧ check = .rsync ∧ v ≠ 0x0) ∨ (∃ x, vs = [x, 0x0, v] ∧ check = .tar ∧ v ≠ 0xF)

/-- From `s` a read cycle runs to its end with these bytes and this trailing turnaround, and leaves `t`
(R130, R131): RSYNC was `0x0`, or the engine is in diagnostic mode. -/
def readRuns (a : Addr) (bytes : List Byte) (tar : Nibble) (s t : State) : Prop :=
  ∃ x r y tgt, s.readAnswers a bytes.length (readFrameTarget x r bytes tar y) tgt ∧
    (r = 0x0 ∨ s.diagnostic = true) ∧ t = readDone a bytes x r tar y tgt s

/-- From `s` a write cycle runs to its end and leaves `t` (R135): RSYNC was `0x0`, the trailing
turnaround `0xF`. -/
def writeRuns (a : Addr) (bytes : List Byte) (s t : State) : Prop :=
  ∃ x y tgt, s.writeAnswers a bytes [x, 0x0, 0xF, y] tgt ∧ t = writeDone a bytes x y tgt s

/-- From `s` the write cycles of an unlock sequence run to their ends, in order, and leave `t` (R170). -/
def sequenceRuns : List CmdPair → State → State → Prop
  | [], s, t => t = s
  | p :: ps, s, t => ∃ u, writeRuns p.addr [p.cmd] s u ∧ sequenceRuns ps u t

/-- From `s` a status read runs to its end, reads `status` and leaves `t` (R171): the command's write
cycle, then the read cycle. -/
def statusRuns (status : Byte) (s t : State) : Prop :=
  ∃ u tar, writeRuns s.params.statusAddr [Config.statusCmd] s u ∧
    readRuns s.params.statusAddr [status] tar u t

/-- From `s` the two identification cycles run to their ends, read `mfr` and `chip` and leave `t`
(R169). -/
def idRuns (mfr chip : Byte) (s t : State) : Prop :=
  ∃ u tar tar', readRuns s.params.mfrIdAddr [mfr] tar s u ∧
    readRuns s.params.chipIdAddr [chip] tar' u t

/-- From `s` the poll loop of `waitForWriteComplete` reads these statuses one after another, waiting
`T_POLL` between two of them, and leaves `t` after the last (R172); `n` polls have been counted. -/
def pollRuns : Nat → List Byte → State → State → Prop
  | _, [], _, _ => False
  | _, [b], s, t => statusRuns b s t
  | n, b :: c :: bs, s, t =>
    ∃ u, statusRuns b s u ∧ pollRuns (n + 1) (c :: bs) (setPolls (n + 1) (delay .poll u)) t

/-! ### Reading the trace back -/

/-- What an event does to the lines (R100): the trace alone tells every line's state (R22, R34). -/
def eventLines (ls : Lines) : LineEvent → Lines
  | .dir line d => ls.turn line d
  | .lvl line l => ls.drive line l
  | .smp _ _ => ls
  | .wait _ => ls

/-- The lines after some events. -/
def replay (ls : Lines) : List LineEvent → Lines
  | [] => ls
  | e :: es => replay (eventLines ls e) es

/-- The line an event is about, if any. -/
def eventLine : LineEvent → Option Line
  | .dir line _ => some line
  | .lvl line _ => some line
  | .smp line _ => some line
  | .wait _ => none

/-- The pins show a nibble on LAD, bit i on LAD[i] and 1 as High (R15, R106), and the level of LFRAME that
goes with `f` (R117). -/
def showsSlot (v : Nibble) (f : Bool) (ls : Lines) : Prop :=
  ls.lad0.lvl = .set (if v.getLsbD 0 then .high else .low) ∧
    ls.lad1.lvl = .set (if v.getLsbD 1 then .high else .low) ∧
    ls.lad2.lvl = .set (if v.getLsbD 2 then .high else .low) ∧
    ls.lad3.lvl = .set (if v.getLsbD 3 then .high else .low) ∧
    ls.lframe.lvl = .set (if f then .low else .high)

/-- How the bus is left after a cycle, whether it returned or ended at a `SyncError` (R134, R138, R209):
LAD input, LCLK Low, LFRAME deasserted. -/
def busReleased (ls : Lines) : Prop :=
  ls.lad0.dir = .set .input ∧ ls.lad1.dir = .set .input ∧ ls.lad2.dir = .set .input ∧
    ls.lad3.dir = .set .input ∧ ls.lclk.lvl = .set .low ∧ ls.lframe.lvl = .set .high

/-- The levels the target's answers put on the sampled lines, bit i on LAD[i] and 1 as High, in trace order
(R15, R107). -/
def answerLevels : List NibbleEvent → List (Line × Level)
  | [] => []
  | .host _ _ :: es => answerLevels es
  | .target v :: es =>
    (.lad0, if v.getLsbD 0 then .high else .low) :: (.lad1, if v.getLsbD 1 then .high else .low) ::
      (.lad2, if v.getLsbD 2 then .high else .low) :: (.lad3, if v.getLsbD 3 then .high else .low) ::
      answerLevels es

/-- The sampled levels of a trace, in order. -/
def sampledLevels : List LineEvent → List (Line × Level)
  | [] => []
  | .smp line l :: es => (line, l) :: sampledLevels es
  | _ :: es => sampledLevels es

/-- How often a named delay occurs in a trace (R245). -/
def countWaits (t : DelayName) (es : List LineEvent) : Nat := es.count (.wait t)

/-- The host slots among the clocks of a log. -/
def hostClocks (log : List NibbleEvent) : Nat := (hostSlots log).length

/-- The target slots among the clocks of a log. -/
def targetClocks (log : List NibbleEvent) : Nat := (targetSlots log).length

/-- The four LAD lines share one direction (R23). -/
abbrev sharedDirection (ls : Lines) : Prop :=
  ls.lad0.dir = ls.lad1.dir ∧ ls.lad1.dir = ls.lad2.dir ∧ ls.lad2.dir = ls.lad3.dir

/-- Is the line one of LAD[3:0]? -/
def isLad : Line → Bool
  | .lad0 => true
  | .lad1 => true
  | .lad2 => true
  | .lad3 => true
  | .reset => false
  | .lframe => false
  | .lclk => false
  | .we => false

/-- The directional handshake over some events (R141, R239): LAD is driven only while it is output and
sampled only while it is input, and no other line is sampled (R24). -/
def handshakeKept (ls : Lines) : List LineEvent → Bool
  | [] => true
  | .lvl line l :: es =>
    (!(isLad line) || (ls.get line).dir == .set .output) && handshakeKept (eventLines ls (.lvl line l)) es
  | .smp line _ :: es =>
    (isLad line && (ls.get line).dir == .set .input) && handshakeKept ls es
  | .dir line d :: es => handshakeKept (eventLines ls (.dir line d)) es
  | .wait _ :: es => handshakeKept ls es

/-! ### Good states -/

/-- A bus operation may run: prepared and not desynced (R30, R31). -/
def State.ready (s : State) : Bool := s.prepared && !s.desync

/-- The operation that is running, if any, is a `waitForWriteComplete` whose line is still the caller's
first, with its limit not reached (R172, log 7). -/
def State.pollingFits (s : State) : Prop :=
  match s.polls with
  | none => True
  | some n =>
    (match s.calls with
      | [] => False
      | line :: _ => decode line = .ok .waitForWriteComplete)
      ∧ 1 ≤ n ∧ pollsExhausted s.params.pollLimit n = false ∧ s.ready = true

/-- The memory of a reference target has its canonical form. -/
def State.memoryFits (s : State) : Prop :=
  match s.target with
  | .oracle _ => True
  | .reference rt => rt.mem.wf

/-- What every step keeps. -/
structure State.Inv (s : State) : Prop where
  /-- between steps the engine is `Idle` or `Aborted` (R28, R38) -/
  atRest : s.phase = .idle ∨ s.phase = .aborted
  /-- `Aborted` exactly while desynced (R28, R209) -/
  abortedDesynced : s.phase = .aborted ↔ s.desync = true
  /-- only a prepared bus can lose its sync (R128) -/
  desyncedPrepared : s.desync = true → s.prepared = true
  /-- the parameters are as R12, R166 and R167 require -/
  paramsLegal : s.params.legal = true
  /-- an identified device is an entry of the registry (R41, R173) -/
  deviceRegistered : ∀ d, s.device = some d → d ∈ s.params.registry
  /-- the lines are what the trace says (R22, R34) -/
  linesTraced : s.lines = replay .unknown s.trace
  /-- LAD shares one direction (R23) -/
  ladShared : sharedDirection s.lines
  /-- two holds per host slot (R115, R245) -/
  hostWaits : countWaits .wSettle s.trace = 2 * hostClocks s.nibbles
  /-- two settle delays per target slot (R118, R245) -/
  targetWaits : countWaits .rSettle s.trace = 2 * targetClocks s.nibbles
  /-- the samples are the target's answers, bit i on LAD[i] (R107, R122) -/
  samplesLogged : sampledLevels s.trace = answerLevels s.nibbles
  /-- `ctx.len` is 0..128 (R25) -/
  lenRange : s.len ≤ 128
  /-- `ctx.idx` is 0..127 (R25) -/
  idxRange : s.idx ≤ 127
  /-- an operation still running is a poll loop -/
  polling : s.pollingFits
  /-- the reference target's memory is canonical -/
  memory : s.memoryFits

/-- What a step never undoes (R32, R34 to R36, R39, D33): the logs and the results only grow, the
configuration stays, lines of the caller are only used up. -/
structure Continues (s t : State) : Prop where
  trace : s.trace <+: t.trace
  nibbles : s.nibbles <+: t.nibbles
  reports : s.reports <+: t.reports
  results : s.results <+: t.results
  params : t.params = s.params
  diagnostic : t.diagnostic = s.diagnostic
  calls : t.calls <:+ s.calls

/-! ### Instructions by what they do -/

/-- The operations of R206 and R207: every bus operation. An unlock sequence with no pair issues no
cycle and so makes no check (R170, log 12). -/
def busOperation : Instr → Bool
  | .setLinesOutput => false
  | .setLinesInput _ => false
  | .assertFrame _ => false
  | .setClock _ => false
  | .busInit => false
  | .writeNibble _ _ => false
  | .readNibble => false
  | .sizeCode _ _ => false
  | .readCycle _ _ => true
  | .writeCycle _ _ => true
  | .findDevice _ _ => false
  | .readDeviceIds => true
  | .executeUnlockSequence d f => !(sequenceOf d f).isEmpty
  | .readStatusRegister => true
  | .waitForWriteComplete => true
  | .identify => true
  | .unlockForWrite => true
  | .unlockForRead => true
  | .readBlock _ _ => true
  | .writeBlock _ _ => true
  | .readFrame _ _ => true
  | .writeFrame _ _ => true

/-- The operations that can issue a read cycle, and so a report (R35). -/
def readsTarget : Instr → Bool
  | .setLinesOutput => false
  | .setLinesInput _ => false
  | .assertFrame _ => false
  | .setClock _ => false
  | .busInit => false
  | .writeNibble _ _ => false
  | .readNibble => false
  | .sizeCode _ _ => false
  | .readCycle _ _ => true
  | .writeCycle _ _ => false
  | .findDevice _ _ => false
  | .readDeviceIds => true
  | .executeUnlockSequence _ _ => false
  | .readStatusRegister => true
  | .waitForWriteComplete => true
  | .identify => true
  | .unlockForWrite => false
  | .unlockForRead => false
  | .readBlock _ _ => true
  | .writeBlock _ _ => false
  | .readFrame _ _ => true
  | .writeFrame _ _ => false

/-- The state without what the working registers of R25 hold. -/
def State.forgetWork (s : State) : State :=
  { s with addr := 0, len := 0, kind := .memoryRead, tx := [], rx := [], idx := 0, lo := 0, sample := 0
           warning := false }

/-- The last outcome is an error. -/
def endedInError (s : State) : Bool :=
  match s.results.getLast? with
  | some (.raised _) => true
  | some (.returned _) => false
  | none => false

/-- Operations one after another, each on the state the one before left, up to the first that ends in an
error (R211). -/
def runToError : List Instr → State → Host.Outcome State Fault Refusal
  | [], s => .next s
  | i :: is, s =>
    match exec i s with
    | .next t => if endedInError t then .next t else runToError is t
    | .fault f => .fault f
    | .refused r => .refused r

/-- An outcome that names the address `b` where it names one. -/
def OpOutcome.naming (b : Addr) : OpOutcome → OpOutcome
  | .returned v => .returned v
  | .raised (.badBlockLength kind n) => .raised (.badBlockLength kind n)
  | .raised (.syncError check kind _ v) => .raised (.syncError check kind b v)
  | .raised .unsupportedDevice => .raised .unsupportedDevice
  | .raised (.pollTimeout _ status) => .raised (.pollTimeout b status)

/-- A report that names the address `b`. -/
def Report.naming (b : Addr) : Report → Report
  | .turnaroundWarning _ v => .turnaroundWarning b v
  | .diagSync _ v => .diagSync b v

/-- The memory of a reference target. -/
def targetMemory : Target → Option Memory
  | .oracle _ => none
  | .reference rt => some rt.mem

/-- The operations that can store to the target: those that issue a write cycle of the caller's or a
descriptor's bytes, and `readNibble`, which can clock the last slot of a write frame that the caller
drives by `writeNibble` calls of its own. -/
def storesToTarget : Instr → Bool
  | .setLinesOutput => false
  | .setLinesInput _ => false
  | .assertFrame _ => false
  | .setClock _ => false
  | .busInit => false
  | .writeNibble _ _ => false
  | .readNibble => true
  | .sizeCode _ _ => false
  | .readCycle _ _ => false
  | .writeCycle _ _ => true
  | .findDevice _ _ => false
  | .readDeviceIds => false
  | .executeUnlockSequence _ _ => true
  | .readStatusRegister => false
  | .waitForWriteComplete => false
  | .identify => false
  | .unlockForWrite => true
  | .unlockForRead => true
  | .readBlock _ _ => false
  | .writeBlock _ _ => true
  | .readFrame _ _ => false
  | .writeFrame _ _ => true

end Sys2Proof.Machine
end

