-- ==== Sys2Proof/Certificates/Slice0/Obligations.lean ====
section
/-! DEFINITION. The statements about the model. Each docstring names the rule of spec/ it formalises, or
the model's own choice it rests on and the log entry that declares it. -/

open Sys2Proof Sys2Proof.Machine

/-! ### Words, lines and steps -/

/-- A step runs the decoded instruction: when the caller's next line decodes to `i`, the step is `exec i`,
and the line is used up unless its operation is still running (R38, R90; the lines are the model's, log 3,
log 7). -/
def Obligations.StepRunsTheDecodedLine : Prop :=
  ∀ (s : State) (line : List Nibble) (rest : List (List Nibble)) (i : Instr),
    s.calls = line :: rest → decode line = .ok i →
      step s = match exec i s with
        | .next t => .next (if t.polls = none then { t with calls := rest } else t)
        | .fault f => .fault f
        | .refused r => .refused r

/-- With no line waiting the engine waits for the caller's next operation (R234, log 10); a line that is
no instruction's words is refused with the decoder's reason (log 3); and `withFetchWord` puts before the
caller's lines one that decodes to what `decodeTableWord` reads from the same number (log 3, log 4). -/
def Obligations.LinesAreTheModelsInterface : Prop :=
  (∀ s : State, s.calls = [] → step s = .next s) ∧
  (∀ (s : State) (line : List Nibble) (rest : List (List Nibble)) (e : DecodeError),
    s.calls = line :: rest → decode line = .error e → step s = .refused (.undecodable e)) ∧
  (∀ (s : State) (nbits w : Nat) (i : Instr), decodeTableWord nbits w = some i →
    ∃ line, decode line = .ok i ∧ s.withFetchWord nbits w = { s with calls := line :: s.calls })

/-- Words written out from the frame tables R71 to R77, and call words of the model (log 3), decode to what
they stand for. -/
def Obligations.KnownWordsDecode : Prop :=
  decode [0xD, 0x0, 0x0, 0x0, 0x7, 0x5, 0x5, 0x5, 0x5, 0x0] = .ok (.readFrame 0x0075555 .b1) ∧
  decode [0xD, 0x0, 0x0, 0x4, 0x0, 0x0, 0x0, 0x1, 0x0, 0x7] = .ok (.readFrame 0x0400010 .b128) ∧
  decode [0xE, 0x0, 0x0, 0x0, 0x7, 0x5, 0x5, 0x5, 0x5, 0x0, 0xA, 0xA] =
    .ok (.writeFrame 0x0075555 (.one 0xAA)) ∧
  decode [0xE, 0x0, 0x0, 0x4, 0x0, 0x0, 0x0, 0x1, 0x0, 0x1, 0x2, 0x1, 0x4, 0x3] =
    .ok (.writeFrame 0x0400010 (.two 0x12 0x34)) ∧
  decode [0x1, 0x4] = .ok .busInit ∧
  decode [0x5, 0x3, 0x0, 0x0, 0x4, 0x0, 0x0, 0x0, 0x1, 0x0, 0x2] = .ok (.readBlock 0x00400010 2)

/-- Decode and encode agree: every instruction, with every operand at every value, ill-formed lengths too,
is read back from its words, whatever follows them, and a line may be filled up with zero words (R71 to
R79; log 3, log 4, log 19). -/
def Obligations.DecodeOfEncodeIsTheInstruction : Prop :=
  ∀ i : Instr,
    (∀ rest, decodeCall (encode i ++ rest) = .ok (i, rest)) ∧
    (∀ k, decode (encode i ++ List.replicate k 0x0) = .ok i)

/-- Each list of words has one reading: words that decode are the encoding of what they decode to, and
then the rest (R88: no further form; log 3, log 19). -/
def Obligations.DecodedWordsAreTheEncoding : Prop :=
  ∀ (ws rest : List Nibble) (i : Instr), decodeCall ws = .ok (i, rest) → ws = encode i ++ rest

/-- The frame values the engine never emits are refused, each by name (R84, R85, R87). -/
def Obligations.ReservedFrameValuesRefused : Prop :=
  (∀ (start : Nibble) (ws : List Nibble), start ≠ 0xD → start ≠ 0xE →
    decodeFrame (start :: ws) = .error .unknownCall) ∧
  (∀ (start idsel : Nibble) (ws : List Nibble), (start = 0xD ∨ start = 0xE) → idsel ≠ 0x0 →
    decodeFrame (start :: idsel :: ws) = .error .badIdsel) ∧
  (∀ (a0 a1 a2 a3 a4 a5 a6 m : Nibble) (ws : List Nibble),
    m ≠ 0x0 → m ≠ 0x1 → m ≠ 0x2 → m ≠ 0x4 → m ≠ 0x7 →
    decodeFrame (0xD :: 0x0 :: a0 :: a1 :: a2 :: a3 :: a4 :: a5 :: a6 :: m :: ws) =
      .error .reservedMsize) ∧
  (∀ (a0 a1 a2 a3 a4 a5 a6 m : Nibble) (ws : List Nibble),
    m ≠ 0x0 → m ≠ 0x1 → m ≠ 0x2 →
    decodeFrame (0xE :: 0x0 :: a0 :: a1 :: a2 :: a3 :: a4 :: a5 :: a6 :: m :: ws) =
      .error .reservedMsize)

/-- A target that decodes as R92 says finds, in the nibble log after a frame's host slots and any target
slots, the frame the engine was asked to send; in a log without a slot with LFRAME asserted it finds none
(R121). -/
def Obligations.TargetDecodesTheEmittedFrame : Prop :=
  (∀ (log : List NibbleEvent) (a : Addr) (size : ReadLength) (answers : List Nibble),
    receivedFrame (log ++ hostEntries (readFrameHost a (readCode size)) ++ answers.map .target) =
      some (.read (frameAddr a) size)) ∧
  (∀ (log : List NibbleEvent) (a : Addr) (data : WriteData) (answers : List Nibble),
    receivedFrame (log ++ hostEntries (writeFrameHost a (writeCode data) (dataBytes data)) ++
        answers.map .target) =
      some (.write (frameAddr a) data)) ∧
  (∀ log : List NibbleEvent, (∀ v, NibbleEvent.host v true ∉ log) → receivedFrame log = none)

/-- What a frame's cycle puts in the nibble log, whether it returns or ends at a `SyncError`: START with
LFRAME asserted, the frame's other words and the host half of the turnaround with LFRAME deasserted, then
target slots only (R71, R72, R79, R83). -/
def Obligations.FrameSlotsAreItsWords : Prop :=
  (∀ (a : FrameAddr) (size : ReadLength) (s t : State), exec (.readFrame a size) s = .next t →
    ∃ words answers : List Nibble, encode (.readFrame a size) = 0xD :: words ∧
      t.nibbles = s.nibbles ++ .host 0xD true :: ((words ++ [0xF]).map (fun v => .host v false) ++
        answers.map .target)) ∧
  (∀ (a : FrameAddr) (data : WriteData) (s t : State), exec (.writeFrame a data) s = .next t →
    ∃ words answers : List Nibble, encode (.writeFrame a data) = 0xE :: words ∧
      t.nibbles = s.nibbles ++ .host 0xE true :: ((words ++ [0xF]).map (fun v => .host v false) ++
        answers.map .target))

/-! ### Signal layer -/

/-- R102, whole: four `Dir` events in order, the levels as they were, nothing else written. -/
def Obligations.SetLinesOutputEffect : Prop :=
  ∀ s : State, exec .setLinesOutput s = .next (record (.returned .unit)
    { s with
      lines := { s.lines with
        lad0 := { dir := .set .output, lvl := s.lines.lad0.lvl }
        lad1 := { dir := .set .output, lvl := s.lines.lad1.lvl }
        lad2 := { dir := .set .output, lvl := s.lines.lad2.lvl }
        lad3 := { dir := .set .output, lvl := s.lines.lad3.lvl } }
      trace := s.trace ++ [.dir .lad0 .output, .dir .lad1 .output, .dir .lad2 .output,
        .dir .lad3 .output] })

/-- R103, whole: with `zeroFirst` all four lines are driven Low and then released, without it they are
released at the levels they hold. -/
def Obligations.SetLinesInputEffect : Prop :=
  (∀ s : State, exec (.setLinesInput true) s = .next (record (.returned .unit)
    { s with
      lines := { s.lines with
        lad0 := { dir := .set .input, lvl := .set .low }
        lad1 := { dir := .set .input, lvl := .set .low }
        lad2 := { dir := .set .input, lvl := .set .low }
        lad3 := { dir := .set .input, lvl := .set .low } }
      trace := s.trace ++ [.lvl .lad0 .low, .lvl .lad1 .low, .lvl .lad2 .low, .lvl .lad3 .low,
        .dir .lad0 .input, .dir .lad1 .input, .dir .lad2 .input, .dir .lad3 .input] })) ∧
  (∀ s : State, exec (.setLinesInput false) s = .next (record (.returned .unit)
    { s with
      lines := { s.lines with
        lad0 := { dir := .set .input, lvl := s.lines.lad0.lvl }
        lad1 := { dir := .set .input, lvl := s.lines.lad1.lvl }
        lad2 := { dir := .set .input, lvl := s.lines.lad2.lvl }
        lad3 := { dir := .set .input, lvl := s.lines.lad3.lvl } }
      trace := s.trace ++ [.dir .lad0 .input, .dir .lad1 .input, .dir .lad2 .input,
        .dir .lad3 .input] }))

/-- R104 and R105: LFRAME goes Low when asserted and High when not, LCLK to the level given, and nothing
else is written. -/
def Obligations.FrameAndClockEffect : Prop :=
  (∀ s : State, exec (.assertFrame true) s = .next (record (.returned .unit)
    { s with
      lines := { s.lines with lframe := { dir := s.lines.lframe.dir, lvl := .set .low } }
      trace := s.trace ++ [.lvl .lframe .low] })) ∧
  (∀ s : State, exec (.assertFrame false) s = .next (record (.returned .unit)
    { s with
      lines := { s.lines with lframe := { dir := s.lines.lframe.dir, lvl := .set .high } }
      trace := s.trace ++ [.lvl .lframe .high] })) ∧
  (∀ (l : Level) (s : State), exec (.setClock l) s = .next (record (.returned .unit)
    { s with
      lines := { s.lines with lclk := { dir := s.lines.lclk.dir, lvl := .set l } }
      trace := s.trace ++ [.lvl .lclk l] }))

/-- R109 with R43 and R232: the fifteen events of `busInit` in order, the lines as the second column of
R43 says, the four assignments, and nothing else of the engine written. The reset pulse reaches the target
(R44, R69). -/
def Obligations.BusInitEffect : Prop :=
  ∀ s : State, exec .busInit s = .next (record (.returned .unit)
    { s with
      lines := {
        reset := { dir := .set .output, lvl := .set .high }
        lad0 := { dir := .set .output, lvl := s.lines.lad0.lvl }
        lad1 := { dir := .set .output, lvl := s.lines.lad1.lvl }
        lad2 := { dir := .set .output, lvl := s.lines.lad2.lvl }
        lad3 := { dir := .set .output, lvl := s.lines.lad3.lvl }
        lframe := { dir := .set .output, lvl := .set .high }
        lclk := { dir := .set .output, lvl := .set .low }
        we := { dir := .set .output, lvl := .set s.params.weLevel } }
      trace := s.trace ++ [.dir .reset .output, .lvl .reset .low, .dir .lclk .output, .lvl .lclk .low,
        .dir .lframe .output, .lvl .lframe .high, .dir .we .output, .lvl .we s.params.weLevel,
        .dir .lad0 .output, .dir .lad1 .output, .dir .lad2 .output, .dir .lad3 .output,
        .wait .reset, .lvl .reset .high, .wait .reset]
      desync := false, prepared := true, device := none, phase := .idle
      target := s.target.resetPulse })

/-- R236 and the corner case of R109: a second `busInit` leaves the same state, with its events in the
trace and its outcome among the results. -/
def Obligations.BusInitTwiceLeavesTheSameState : Prop :=
  ∀ s t : State, exec .busInit s = .next t →
    exec .busInit t = .next { t with
      trace := t.trace ++ busInitEvents t.params.weLevel
      results := t.results ++ [.returned .unit] }

/-- R110: no operation but `busInit` drives RESET or WE, and no event it adds to the trace is about
either. -/
def Obligations.OnlyBusInitDrivesResetAndWe : Prop :=
  ∀ (i : Instr) (s t : State), i ≠ .busInit → exec i s = .next t →
    t.lines.reset = s.lines.reset ∧ t.lines.we = s.lines.we ∧
    ∃ es, t.trace = s.trace ++ es ∧
      ∀ e ∈ es, eventLine e ≠ some .reset ∧ eventLine e ≠ some .we

/-! ### Nibble transport -/

/-- R115 and R116, in the order of the rule: clock, data, frame level, hold, clock, hold; one `Host`
entry; nothing else written. LAD[i] carries bit i of the nibble, 1 as High (R15, R106). -/
def Obligations.WriteNibbleEffect : Prop :=
  ∀ (v : Nibble) (f : Bool) (s : State), exec (.writeNibble v f) s = .next (record (.returned .unit)
    { s with
      lines := { s.lines with
        lclk := { dir := s.lines.lclk.dir, lvl := .set .low }
        lad0 := { dir := s.lines.lad0.dir, lvl := .set (if v.getLsbD 0 then .high else .low) }
        lad1 := { dir := s.lines.lad1.dir, lvl := .set (if v.getLsbD 1 then .high else .low) }
        lad2 := { dir := s.lines.lad2.dir, lvl := .set (if v.getLsbD 2 then .high else .low) }
        lad3 := { dir := s.lines.lad3.dir, lvl := .set (if v.getLsbD 3 then .high else .low) }
        lframe := { dir := s.lines.lframe.dir, lvl := .set (if f then .low else .high) } }
      trace := s.trace ++ [.lvl .lclk .high,
        .lvl .lad0 (if v.getLsbD 0 then .high else .low), .lvl .lad1 (if v.getLsbD 1 then .high else .low),
        .lvl .lad2 (if v.getLsbD 2 then .high else .low), .lvl .lad3 (if v.getLsbD 3 then .high else .low),
        .lvl .lframe (if f then .low else .high), .wait .wSettle, .lvl .lclk .low, .wait .wSettle]
      nibbles := s.nibbles ++ [.host v f] })

/-- R118, whatever the target answers: the events in order, the value in `ctx.sample`, in the log and in
the result, LCLK Low, nothing else of the engine written. Bit i of the value is what LAD[i] reads, High as
1 (R15, R107); that an output line reads the target's answer too is the model's choice (log 14). -/
def Obligations.ReadNibbleEffect : Prop :=
  ∀ (v : Nibble) (tgt : Target) (s : State), s.target.draw s.params s.nibbles = (v, tgt) →
    exec .readNibble s = .next (record (.returned (.nibble v))
      { s with
        lines := { s.lines with lclk := { dir := s.lines.lclk.dir, lvl := .set .low } }
        sample := v
        trace := s.trace ++ [.wait .rSettle, .lvl .lclk .high, .wait .rSettle,
          .smp .lad0 (if v.getLsbD 0 then .high else .low), .smp .lad1 (if v.getLsbD 1 then .high else .low),
          .smp .lad2 (if v.getLsbD 2 then .high else .low), .smp .lad3 (if v.getLsbD 3 then .high else .low),
          .lvl .lclk .low]
        nibbles := s.nibbles ++ [.target v], target := tgt })

/-- R117: across two host slots, the pins still show the first slot at the second's rising clock edge,
and show the second at its falling edge. -/
def Obligations.PinsAtTheClockEdges : Prop :=
  ∀ (v w : Nibble) (f g : Bool) (s t u : State),
    exec (.writeNibble v f) s = .next t → exec (.writeNibble w g) t = .next u →
    ∃ before after, u.trace = t.trace ++ [.lvl .lclk .high] ++ before ++ [.lvl .lclk .low] ++ after ∧
      (∀ e ∈ before ++ after, eventLine e ≠ some .lclk) ∧
      showsSlot v f (replay t.lines [.lvl .lclk .high]) ∧
      showsSlot w g (replay t.lines ([.lvl .lclk .high] ++ before ++ [.lvl .lclk .low]))

/-! ### Size codes and the checks before bus activity -/

/-- R126, whole: the five codes for a read, the first three for a write, `BadBlockLength` for every other
input, and no state written. -/
def Obligations.SizeCodeTable : Prop :=
  ∀ s : State,
    (∀ k, exec (.sizeCode 1 k) s = .next (record (.returned (.nibble 0x0)) s)) ∧
    (∀ k, exec (.sizeCode 2 k) s = .next (record (.returned (.nibble 0x1)) s)) ∧
    (∀ k, exec (.sizeCode 4 k) s = .next (record (.returned (.nibble 0x2)) s)) ∧
    exec (.sizeCode 16 .memoryRead) s = .next (record (.returned (.nibble 0x4)) s) ∧
    exec (.sizeCode 128 .memoryRead) s = .next (record (.returned (.nibble 0x7)) s) ∧
    (∀ n, n ∉ [1, 2, 4, 16, 128] → exec (.sizeCode n .memoryRead) s =
      .next (record (.raised (.badBlockLength .memoryRead n)) s)) ∧
    (∀ n, n ∉ [1, 2, 4] → exec (.sizeCode n .memoryWrite) s =
      .next (record (.raised (.badBlockLength .memoryWrite n)) s))

/-- R127 and R201: a cycle of a length the protocol does not support raises `BadBlockLength` and writes
nothing but the outcome. -/
def Obligations.BadBlockLengthTouchesNothing : Prop :=
  (∀ (a : Addr) (n : Nat) (s : State), s.ready = true → n ∉ [1, 2, 4, 16, 128] →
    exec (.readCycle a n) s = .next (record (.raised (.badBlockLength .memoryRead n)) s) ∧
    exec (.readBlock a n) s = .next (record (.raised (.badBlockLength .memoryRead n)) s)) ∧
  (∀ (a : Addr) (bytes : List Byte) (s : State), s.ready = true → bytes.length ∉ [1, 2, 4] →
    exec (.writeCycle a bytes) s =
      .next (record (.raised (.badBlockLength .memoryWrite bytes.length)) s) ∧
    exec (.writeBlock a bytes) s =
      .next (record (.raised (.badBlockLength .memoryWrite bytes.length)) s))

/-- R206, R207 and the order of R212: a bus operation faults `NotPrepared` exactly when the engine is not
prepared, and `BusDesynced` exactly when it is prepared and desynced; no other operation faults, and none
is refused. An unlock sequence of no pairs is no bus operation (R170, log 12). -/
def Obligations.FaultsAreExactlyTheTwoChecks : Prop :=
  ∀ (i : Instr) (s : State),
    (exec i s = .fault .notPrepared ↔ busOperation i = true ∧ s.prepared = false) ∧
    (exec i s = .fault .busDesynced ↔ busOperation i = true ∧ s.prepared = true ∧ s.desync = true) ∧
    (∀ r, exec i s ≠ .refused r)

/-! ### Bus cycles -/

/-- R130 to R134 for `readCycle`, any target whose answers let the cycle run: RSYNC `0x0`, or any RSYNC in
diagnostic mode. The whole next state is `readDone`; that `ctx.idx` is left at the last index there is the
model's reading (log 21). -/
def Obligations.ReadCycleCompletes : Prop :=
  ∀ (a : Addr) (bytes : List Byte) (x r t y : Nibble) (tgt : Target) (s : State),
    s.ready = true → bytes.length ∈ [1, 2, 4, 16, 128] →
    s.readAnswers a bytes.length (readFrameTarget x r bytes t y) tgt →
    (r = 0x0 ∨ s.diagnostic = true) →
    exec (.readCycle a bytes.length) s =
      .next (record (.returned (.cycle bytes (!(t == 0xF)))) (readDone a bytes x r t y tgt s))

/-- R131, R202 and R209: an RSYNC other than `0x0` outside diagnostic mode ends the cycle at once, and
with it the operation that issued it (R211). The whole next state is `readAborted`; that `ctx.idx` is as it
was there is the model's reading (log 21), and that a frame row runs its cycle is log 5's. -/
def Obligations.ReadCycleSyncErrorEndsAtOnce : Prop :=
  (∀ (a : Addr) (n : Nat) (x r : Nibble) (tgt : Target) (s : State),
    s.ready = true → n ∈ [1, 2, 4, 16, 128] → s.readAnswers a n [x, r] tgt → r ≠ 0x0 →
    s.diagnostic = false →
    exec (.readCycle a n) s =
      .next (record (.raised (.syncError .rsync .memoryRead a r)) (readAborted a n x r tgt s)) ∧
    exec (.readBlock a n) s =
      .next (record (.raised (.syncError .rsync .memoryRead a r)) (readAborted a n x r tgt s))) ∧
  (∀ (a : FrameAddr) (size : ReadLength) (x r : Nibble) (tgt : Target) (s : State),
    s.ready = true → s.readAnswers (wideAddr a) (readBytes size) [x, r] tgt → r ≠ 0x0 →
    s.diagnostic = false →
    exec (.readFrame a size) s = .next (record
      (.raised (.syncError .rsync .memoryRead (wideAddr a) r))
      (readAborted (wideAddr a) (readBytes size) x r tgt s)))

/-- R131 and R250: in diagnostic mode a read cycle of a legal length returns its bytes whatever the target
answers, and does not lose the bus. -/
def Obligations.DiagnosticReadsAlwaysReturn : Prop :=
  ∀ (a : Addr) (n : Nat) (s : State), s.ready = true → s.diagnostic = true →
    n ∈ [1, 2, 4, 16, 128] →
    ∃ bytes warning t, exec (.readCycle a n) s =
      .next (record (.returned (.cycle bytes warning)) t) ∧ bytes.length = n ∧ t.desync = false

/-- R135 and R138 for `writeCycle`, any target that accepts: the whole next state is `writeDone`; that
`ctx.idx` is left at the last index there is the model's reading (log 21). -/
def Obligations.WriteCycleCompletes : Prop :=
  ∀ (a : Addr) (bytes : List Byte) (x y : Nibble) (tgt : Target) (s : State),
    s.ready = true → bytes.length ∈ [1, 2, 4] → s.writeAnswers a bytes [x, 0x0, 0xF, y] tgt →
    exec (.writeCycle a bytes) s = .next (record (.returned .unit) (writeDone a bytes x y tgt s))

/-- R136, R137, R202, R203 and R209: a write cycle ends at once at a bad RSYNC, in diagnostic mode too,
and at a bad trailing turnaround, and with it the operation that issued it (R211). The whole next state is
`writeAborted`; that `ctx.idx` is left at the last index there is the model's reading (log 21), and that a
frame row runs its cycle is log 5's. -/
def Obligations.WriteCycleSyncErrorsEndAtOnce : Prop :=
  (∀ (a : Addr) (bytes : List Byte) (vs : List Nibble) (check : SyncCheck) (v : Nibble) (tgt : Target)
      (s : State),
    s.ready = true → bytes.length ∈ [1, 2, 4] → s.writeAnswers a bytes vs tgt →
    writeEndsAt vs check v →
    exec (.writeCycle a bytes) s = .next (record (.raised (.syncError check .memoryWrite a v))
      (writeAborted a bytes vs tgt s)) ∧
    exec (.writeBlock a bytes) s = .next (record (.raised (.syncError check .memoryWrite a v))
      (writeAborted a bytes vs tgt s))) ∧
  (∀ (a : FrameAddr) (data : WriteData) (vs : List Nibble) (check : SyncCheck) (v : Nibble)
      (tgt : Target) (s : State),
    s.ready = true → s.writeAnswers (wideAddr a) (dataBytes data) vs tgt → writeEndsAt vs check v →
    exec (.writeFrame a data) s = .next (record
      (.raised (.syncError check .memoryWrite (wideAddr a) v))
      (writeAborted (wideAddr a) (dataBytes data) vs tgt s)))

/-- R142 and the cycle rows of R245: how many host slots, target slots and settle delays each end of a
cycle has clocked. -/
def Obligations.CycleClockCounts : Prop :=
  (∀ (a : Addr) (n : Nat) (s t : State) (b : List Byte) (w : Bool),
    exec (.readCycle a n) s = .next t → t.results = s.results ++ [.returned (.cycle b w)] →
    hostClocks t.nibbles = hostClocks s.nibbles + 11 ∧
    targetClocks t.nibbles = targetClocks s.nibbles + 4 + 2 * n ∧
    countWaits .wSettle t.trace = countWaits .wSettle s.trace + 22 ∧
    countWaits .rSettle t.trace = countWaits .rSettle s.trace + 8 + 4 * n) ∧
  (∀ (a : Addr) (n : Nat) (s t : State) (c : SyncCheck) (k : BusCycleKind) (e : Addr) (v : Nibble),
    exec (.readCycle a n) s = .next t → t.results = s.results ++ [.raised (.syncError c k e v)] →
    hostClocks t.nibbles = hostClocks s.nibbles + 11 ∧
    targetClocks t.nibbles = targetClocks s.nibbles + 2 ∧
    countWaits .wSettle t.trace = countWaits .wSettle s.trace + 22 ∧
    countWaits .rSettle t.trace = countWaits .rSettle s.trace + 4) ∧
  (∀ (a : Addr) (bytes : List Byte) (s t : State),
    exec (.writeCycle a bytes) s = .next t → t.results = s.results ++ [.returned .unit] →
    hostClocks t.nibbles = hostClocks s.nibbles + 11 + 2 * bytes.length ∧
    targetClocks t.nibbles = targetClocks s.nibbles + 4 ∧
    countWaits .wSettle t.trace = countWaits .wSettle s.trace + 22 + 4 * bytes.length ∧
    countWaits .rSettle t.trace = countWaits .rSettle s.trace + 8) ∧
  (∀ (a : Addr) (bytes : List Byte) (s t : State) (c : SyncCheck) (k : BusCycleKind) (e : Addr)
      (v : Nibble),
    exec (.writeCycle a bytes) s = .next t → t.results = s.results ++ [.raised (.syncError c k e v)] →
    hostClocks t.nibbles = hostClocks s.nibbles + 11 + 2 * bytes.length ∧
    targetClocks t.nibbles = targetClocks s.nibbles + (if c = .rsync then 2 else 3) ∧
    countWaits .wSettle t.trace = countWaits .wSettle s.trace + 22 + 4 * bytes.length ∧
    countWaits .rSettle t.trace = countWaits .rSettle s.trace + (if c = .rsync then 4 else 6))

/-- R134, R138 and R209: an operation that put a cycle on the bus leaves LAD input, LCLK Low and LFRAME
deasserted, whether it returned or ended at a `SyncError`. -/
def Obligations.BusOperationsReleaseTheBus : Prop :=
  ∀ (i : Instr) (s t : State), busOperation i = true → exec i s = .next t → t.nibbles ≠ s.nibbles →
    busReleased t.lines

/-- R141 and R239: over the events of a bus operation LAD is driven only while it is output and sampled
only while it is input, and no other line is sampled (R24). -/
def Obligations.DirectionalHandshakeHolds : Prop :=
  ∀ (i : Instr) (s t : State), busOperation i = true → exec i s = .next t →
    ∃ es, t.trace = s.trace ++ es ∧ handshakeKept s.lines es = true

/-- R50 and R143: two addresses that agree in bits 27..0 give the same cycle: the same slots, the same
state, the same outcome and the same reports, but that the address register holds the address of the call
and errors and reports name it. No address raises an error of its own: what the cycle at one address
returns, raises or faults with, the cycle at the other does. -/
def Obligations.HighAddressBitsHaveNoEffect : Prop :=
  (∀ (a b : Addr) (n : Nat) (s : State), frameAddr a = frameAddr b →
    (∀ t, exec (.readCycle a n) s = .next t →
      ∃ (o : OpOutcome) (reports : List Report), t.results = s.results ++ [o] ∧ t.reports = s.reports ++ reports ∧
        o.naming a = o ∧ reports.map (·.naming a) = reports ∧
        exec (.readCycle b n) s = .next { t with
          addr := if n ∈ [1, 2, 4, 16, 128] then b else s.addr
          reports := s.reports ++ reports.map (·.naming b)
          results := s.results ++ [o.naming b] }) ∧
    (∀ f, exec (.readCycle a n) s = .fault f → exec (.readCycle b n) s = .fault f)) ∧
  (∀ (a b : Addr) (bytes : List Byte) (s : State), frameAddr a = frameAddr b →
    (∀ t, exec (.writeCycle a bytes) s = .next t →
      ∃ o : OpOutcome, t.results = s.results ++ [o] ∧ o.naming a = o ∧
        exec (.writeCycle b bytes) s = .next { t with
          addr := if bytes.length ∈ [1, 2, 4] then b else s.addr
          results := s.results ++ [o.naming b] }) ∧
    (∀ f, exec (.writeCycle a bytes) s = .fault f → exec (.writeCycle b bytes) s = .fault f))

/-- R28 with R139: the read cycle's phases, one after another in the table's order, with RC10 once per
byte, are the read cycle. That `ctx.idx` ends alike in both is the model's reading (log 21). -/
def Obligations.PhaseTableRunsTheReadCycle : Prop :=
  ∀ (a : Addr) (n : Nat) (s : State), s.ready = true → n ∈ [1, 2, 4, 16, 128] →
    (∀ r t, readCycle a n s = .ok r t →
      runPhases (n + 11) (enter .rc1 (loadRead a n s)) = .ok () t) ∧
    (∀ e t, readCycle a n s = .raised e t →
      runPhases (n + 11) (enter .rc1 (loadRead a n s)) = .raised e t)

/-- R28 with R140: the write cycle's phases, one after another in the table's order, with WC6 once per
byte, are the write cycle. That `ctx.idx` ends alike in both is the model's reading (log 21). -/
def Obligations.PhaseTableRunsTheWriteCycle : Prop :=
  ∀ (a : Addr) (bytes : List Byte) (s : State), s.ready = true → bytes.length ∈ [1, 2, 4] →
    (∀ t, writeCycle a bytes s = .ok () t →
      runPhases (bytes.length + 11) (enter .wc1 (loadWrite a bytes s)) = .ok () t) ∧
    (∀ e t, writeCycle a bytes s = .raised e t →
      runPhases (bytes.length + 11) (enter .wc1 (loadWrite a bytes s)) = .raised e t)

/-- The two frame rows run their cycle (R71, R72; that running a frame is running its cycle is the
model's reading, log 5, and so is what `readDone` and `writeDone` say of `ctx.idx`, log 21). -/
def Obligations.FramesComplete : Prop :=
  (∀ (a : FrameAddr) (size : ReadLength) (bytes : List Byte) (x r t y : Nibble) (tgt : Target)
      (s : State),
    s.ready = true → bytes.length = readBytes size →
    s.readAnswers (wideAddr a) bytes.length (readFrameTarget x r bytes t y) tgt →
    (r = 0x0 ∨ s.diagnostic = true) →
    exec (.readFrame a size) s = .next (record (.returned (.cycle bytes (!(t == 0xF))))
      (readDone (wideAddr a) bytes x r t y tgt s))) ∧
  (∀ (a : FrameAddr) (data : WriteData) (x y : Nibble) (tgt : Target) (s : State),
    s.ready = true → s.writeAnswers (wideAddr a) (dataBytes data) [x, 0x0, 0xF, y] tgt →
    exec (.writeFrame a data) s = .next (record (.returned .unit)
      (writeDone (wideAddr a) (dataBytes data) x y tgt s)))

/-! ### Device operations -/

/-- R168: the first entry of the registry, in its order, with both bytes; none is a value; nothing else of
the state is read or written. -/
def Obligations.FindDeviceIsTheFirstMatch : Prop :=
  ∀ (mfr chip : Byte) (s : State), exec (.findDevice mfr chip) s = .next (record (.returned (.device
    (s.params.registry.find? (fun d => d.mfr == mfr && d.chip == chip)))) s)

/-- R166 and R167: in a legal registry, looking up (0xBF, 0x60) finds the reference entry and (0x00, 0x00)
finds none. -/
def Obligations.LegalRegistryLookups : Prop :=
  ∀ s : State, s.params.legal = true →
    (∃ readSeq, exec (.findDevice 0xBF 0x60) s =
      .next (record (.returned (.device (some (Config.refDevice readSeq)))) s)) ∧
    exec (.findDevice 0x00 0x00) s = .next (record (.returned (.device none)) s)

/-- R169 and R173: the two identification cycles in order, the raw pair as the result; `identify` also
leaves the registry's entry, or none, as the device. -/
def Obligations.IdentificationCompletes : Prop :=
  ∀ (mfr chip : Byte) (s t : State), s.ready = true → idRuns mfr chip s t →
    exec .readDeviceIds s = .next (record (.returned (.ids mfr chip)) t) ∧
    exec .identify s = .next (record (.returned (.ids mfr chip))
      { t with
        device := s.params.registry.find? (fun d => d.mfr == mfr && d.chip == chip) })

/-- R169, R173 and R211: a `SyncError` in the first identification cycle ends the operation, in the
second too, and the device is as it was. -/
def Obligations.IdentificationStopsAtSyncError : Prop :=
  (∀ (x r : Nibble) (tgt : Target) (s : State), s.ready = true → s.diagnostic = false →
    s.readAnswers s.params.mfrIdAddr 1 [x, r] tgt → r ≠ 0x0 →
    exec .readDeviceIds s = .next (record
      (.raised (.syncError .rsync .memoryRead s.params.mfrIdAddr r))
      (readAborted s.params.mfrIdAddr 1 x r tgt s)) ∧
    exec .identify s = .next (record
      (.raised (.syncError .rsync .memoryRead s.params.mfrIdAddr r))
      (readAborted s.params.mfrIdAddr 1 x r tgt s))) ∧
  (∀ (mfr : Byte) (tar x r : Nibble) (tgt : Target) (s u : State), s.ready = true →
    s.diagnostic = false → readRuns s.params.mfrIdAddr [mfr] tar s u →
    u.readAnswers s.params.chipIdAddr 1 [x, r] tgt → r ≠ 0x0 →
    exec .readDeviceIds s = .next (record
      (.raised (.syncError .rsync .memoryRead s.params.chipIdAddr r))
      (readAborted s.params.chipIdAddr 1 x r tgt u)) ∧
    exec .identify s = .next (record
      (.raised (.syncError .rsync .memoryRead s.params.chipIdAddr r))
      (readAborted s.params.chipIdAddr 1 x r tgt u)))

/-- R170: the pairs' write cycles, in order and unmodified; an empty sequence is a no-op (that it makes
no check either is the model's reading, log 12). -/
def Obligations.UnlockSequenceCompletes : Prop :=
  ∀ (d : DeviceDescriptor) (forWrite : Bool) (s t : State),
    (s.ready = true ∨ (if forWrite then d.writeSeq else d.readSeq) = []) →
    sequenceRuns (if forWrite then d.writeSeq else d.readSeq) s t →
    exec (.executeUnlockSequence d forWrite) s = .next (record (.returned .unit) t)

/-- R170 and R211: a `SyncError` in any cycle of a sequence, at RSYNC (R136) or at the trailing turnaround
(R137), ends it at once; the pairs after it are not issued. With that device identified the unlock
operation ends the same way (R174, R175). What `writeAborted` says of `ctx.idx` is log 21's reading. -/
def Obligations.UnlockSequenceStopsAtSyncError : Prop :=
  ∀ (d : DeviceDescriptor) (forWrite : Bool) (before after : List CmdPair) (p : CmdPair)
      (vs : List Nibble) (check : SyncCheck) (v : Nibble) (tgt : Target) (s u : State),
    s.ready = true → (if forWrite then d.writeSeq else d.readSeq) = before ++ p :: after →
    sequenceRuns before s u → u.writeAnswers p.addr [p.cmd] vs tgt → writeEndsAt vs check v →
    exec (.executeUnlockSequence d forWrite) s = .next (record
      (.raised (.syncError check .memoryWrite p.addr v)) (writeAborted p.addr [p.cmd] vs tgt u)) ∧
    (s.device = some d → exec (if forWrite then .unlockForWrite else .unlockForRead) s = .next (record
      (.raised (.syncError check .memoryWrite p.addr v)) (writeAborted p.addr [p.cmd] vs tgt u)))

/-- R174 and R175: with an identified device the unlock operations run its write or its read sequence. -/
def Obligations.UnlockRunsTheDevicesSequence : Prop :=
  ∀ (d : DeviceDescriptor) (s t : State), s.ready = true → s.device = some d →
    (sequenceRuns d.writeSeq s t → exec .unlockForWrite s = .next (record (.returned .unit) t)) ∧
    (sequenceRuns d.readSeq s t → exec .unlockForRead s = .next (record (.returned .unit) t))

/-- R205: without an identified device the unlock operations raise `UnsupportedDevice` and write nothing
but the outcome. -/
def Obligations.UnlockNeedsADevice : Prop :=
  ∀ s : State, s.ready = true → s.device = none →
    exec .unlockForWrite s = .next (record (.raised .unsupportedDevice) s) ∧
    exec .unlockForRead s = .next (record (.raised .unsupportedDevice) s)

/-- R171: the command's write cycle, then the read cycle, and the byte read. -/
def Obligations.StatusReadCompletes : Prop :=
  ∀ (status : Byte) (s t : State), s.ready = true → statusRuns status s t →
    exec .readStatusRegister s = .next (record (.returned (.byte status)) t)

/-- R171 and R211: if the status command's write cycle raises, at RSYNC or at the trailing turnaround, the
read is not issued; if the read cycle raises, nothing follows it. Both end `readStatusRegister`, and a
`waitForWriteComplete` that was polling, with the same error. What the states say of `ctx.idx` is log 21's
reading. -/
def Obligations.StatusReadStopsAtSyncError : Prop :=
  (∀ (vs : List Nibble) (check : SyncCheck) (v : Nibble) (tgt : Target) (s : State), s.ready = true →
    s.writeAnswers s.params.statusAddr [0x70] vs tgt → writeEndsAt vs check v →
    exec .readStatusRegister s = .next (record
      (.raised (.syncError check .memoryWrite s.params.statusAddr v))
      (writeAborted s.params.statusAddr [0x70] vs tgt s)) ∧
    exec .waitForWriteComplete s = .next (record
      (.raised (.syncError check .memoryWrite s.params.statusAddr v))
      (writeAborted s.params.statusAddr [0x70] vs tgt s))) ∧
  (∀ (x r : Nibble) (tgt : Target) (s u : State), s.ready = true → s.diagnostic = false →
    writeRuns s.params.statusAddr [0x70] s u → u.readAnswers s.params.statusAddr 1 [x, r] tgt →
    r ≠ 0x0 →
    exec .readStatusRegister s = .next (record
      (.raised (.syncError .rsync .memoryRead s.params.statusAddr r))
      (readAborted s.params.statusAddr 1 x r tgt u)) ∧
    exec .waitForWriteComplete s = .next (record
      (.raised (.syncError .rsync .memoryRead s.params.statusAddr r))
      (readAborted s.params.statusAddr 1 x r tgt u)))

/-- R172 and R208, one poll: bit 0 clear returns; bit 0 set waits `T_POLL` and goes on polling while the
limit allows; the last poll of a limit raises `PollTimeout`. That a poll is a step is the model's choice
(log 7). -/
def Obligations.WaitPollsTheStatus : Prop :=
  ∀ (status : Byte) (n : Nat) (s t : State), s.ready = true → s.polls.getD 0 = n → statusRuns status s t →
    (status.getLsbD 0 = false →
      exec .waitForWriteComplete s = .next (record (.returned .unit) t)) ∧
    (status.getLsbD 0 = true → (∀ m, s.params.pollLimit = some m → n + 1 < m) →
      exec .waitForWriteComplete s =
        .next { t with trace := t.trace ++ [.wait .poll], polls := some (n + 1) }) ∧
    (status.getLsbD 0 = true → (∃ m, s.params.pollLimit = some m ∧ m ≤ n + 1) →
      exec .waitForWriteComplete s =
        .next (record (.raised (.pollTimeout s.params.statusAddr status)) t))

/-- R172 and the last row but one of R245: a wait whose status reads show bit 0 set and then, at poll p,
clear returns after p steps, with 34 p clocks, 48 p and 20 p settle delays and p - 1 poll delays. That each
poll is a step is the model's choice (log 7). -/
def Obligations.WaitReturnsAtTheFirstClearStatus : Prop :=
  ∀ (line : List Nibble) (rest : List (List Nibble)) (busy : List Byte) (last : Byte) (s t : State),
    s.ready = true → s.calls = line :: rest → decode line = .ok .waitForWriteComplete →
    s.polls = none → (∀ m, s.params.pollLimit = some m → busy.length < m) →
    (∀ b ∈ busy, b.getLsbD 0 = true) → last.getLsbD 0 = false →
    pollRuns 0 (busy ++ [last]) s t →
    Sys2Proof.core.run (busy.length + 1) s = .next { record (.returned .unit) t with calls := rest } ∧
    hostClocks t.nibbles + targetClocks t.nibbles =
      hostClocks s.nibbles + targetClocks s.nibbles + 34 * (busy.length + 1) ∧
    countWaits .wSettle t.trace = countWaits .wSettle s.trace + 48 * (busy.length + 1) ∧
    countWaits .rSettle t.trace = countWaits .rSettle s.trace + 20 * (busy.length + 1) ∧
    countWaits .poll t.trace = countWaits .poll s.trace + busy.length

/-- R249 and R224: with no limit, a wait on a reference target (R69) whose busy bit stays 1 never returns:
after any number of steps it is still polling. That each poll is a step is the model's choice (log 7). -/
def Obligations.StuckBusyBitPollsForever : Prop :=
  ∀ (line : List Nibble) (rest : List (List Nibble)) (rt : RefTarget) (s : State),
    s.ready = true → s.calls = line :: rest → decode line = .ok .waitForWriteComplete →
    s.polls = none → s.params.pollLimit = none →
    s.target = .reference rt → rt.status.getLsbD 0 = true →
    ∀ k : Nat, ∃ t, Sys2Proof.core.run (k + 1) s = .next t ∧ t.polls = some (k + 1) ∧
      t.calls = s.calls ∧ t.results = s.results ∧ t.ready = true

/-- The composite rows of R245: the clocks of the device operations that return. -/
def Obligations.DeviceOperationClockCounts : Prop :=
  (∀ (i : Instr) (s t : State) (m c : Byte), (i = .readDeviceIds ∨ i = .identify) →
    exec i s = .next t → t.results = s.results ++ [.returned (.ids m c)] →
    hostClocks t.nibbles + targetClocks t.nibbles = hostClocks s.nibbles + targetClocks s.nibbles + 34 ∧
    countWaits .wSettle t.trace = countWaits .wSettle s.trace + 44 ∧
    countWaits .rSettle t.trace = countWaits .rSettle s.trace + 24) ∧
  (∀ (s t : State) (b : Byte),
    exec .readStatusRegister s = .next t → t.results = s.results ++ [.returned (.byte b)] →
    hostClocks t.nibbles + targetClocks t.nibbles = hostClocks s.nibbles + targetClocks s.nibbles + 34 ∧
    countWaits .wSettle t.trace = countWaits .wSettle s.trace + 48 ∧
    countWaits .rSettle t.trace = countWaits .rSettle s.trace + 20) ∧
  (∀ (d : DeviceDescriptor) (f : Bool) (s t : State),
    exec (.executeUnlockSequence d f) s = .next t → t.results = s.results ++ [.returned .unit] →
    hostClocks t.nibbles + targetClocks t.nibbles =
      hostClocks s.nibbles + targetClocks s.nibbles + 17 * (sequenceOf d f).length ∧
    countWaits .wSettle t.trace = countWaits .wSettle s.trace + 26 * (sequenceOf d f).length ∧
    countWaits .rSettle t.trace = countWaits .rSettle s.trace + 8 * (sequenceOf d f).length)

/-- R91: each pseudo-operation leaves the state that the lines it expands into leave, run one after
another up to the first error; only the outcomes differ, and the device that `ID` looks up. `STATUS` returns
the byte its second line reads, `ID` the two bytes its lines read, and an error is that of the line it came
from. One poll of `WAITWR` is a `STATUS` (that a poll is a step is the model's choice, log 7): bit 0 of the
byte 0 returns, 1 polls again or raises `PollTimeout` (R172). -/
def Obligations.PseudoOperationsExpand : Prop :=
  (∀ s t : State, exec .readStatusRegister s = .next t →
    ∃ u, runToError (expandStatus s.params) s = .next u ∧ t = { u with results := t.results } ∧
      ((∃ b, t.results = s.results ++ [.returned (.byte b)] ∧
          u.results = s.results ++ [.returned .unit, .returned (.bytes [b])]) ∨
        ∃ e, t.results = s.results ++ [.raised e] ∧ u.results.getLast? = some (.raised e))) ∧
  (∀ s t : State, exec .identify s = .next t →
    ∃ u, runToError (expandId s.params) s = .next u ∧
      ((∃ m c, t.results = s.results ++ [.returned (.ids m c)] ∧
          u.results = s.results ++ [.returned (.bytes [m]), .returned (.bytes [c])] ∧
          t = { u with
            results := t.results
            device := s.params.registry.find? (fun d => d.mfr == m && d.chip == c) }) ∨
        ∃ e, t.results = s.results ++ [.raised e] ∧ u.results.getLast? = some (.raised e) ∧
          t = { u with results := t.results })) ∧
  (∀ (d : DeviceDescriptor) (s t : State), s.device = some d → exec .unlockForWrite s = .next t →
    ∃ u, runToError (expandSequence d.writeSeq) s = .next u ∧
      t = { u with results := t.results, polls := none } ∧
      ((t.results = s.results ++ [.returned .unit] ∧
          u.results = s.results ++ d.writeSeq.map (fun _ => .returned .unit)) ∨
        ∃ e, t.results = s.results ++ [.raised e] ∧ u.results.getLast? = some (.raised e))) ∧
  (∀ s u : State, exec .readStatusRegister s = .next u →
    ∃ t, exec .waitForWriteComplete s = .next t ∧
      (∀ e, u.results = s.results ++ [.raised e] → t = u) ∧
      (∀ b, u.results = s.results ++ [.returned (.byte b)] → b.getLsbD 0 = false →
        t = { u with results := s.results ++ [.returned .unit] }) ∧
      (∀ b, u.results = s.results ++ [.returned (.byte b)] → b.getLsbD 0 = true →
        (∃ m, s.params.pollLimit = some m ∧ m ≤ s.polls.getD 0 + 1) →
        t = { u with results := s.results ++ [.raised (.pollTimeout s.params.statusAddr b)] }) ∧
      (∀ b, u.results = s.results ++ [.returned (.byte b)] → b.getLsbD 0 = true →
        (∀ m, s.params.pollLimit = some m → s.polls.getD 0 + 1 < m) →
        t = { u with
          results := s.results, trace := u.trace ++ [.wait .poll], polls := some (s.polls.getD 0 + 1) }))

/-! ### Block API -/

/-- R176 and R177: `readBlock` is one read cycle with its bytes as the result, its warning left to the
report log; `writeBlock` is one write cycle and nothing more: no unlock, no wait, no device check. What
`readDone` and `writeDone` say of `ctx.idx` is the model's reading (log 21). -/
def Obligations.BlockOperationsComplete : Prop :=
  (∀ (a : Addr) (bytes : List Byte) (x r t y : Nibble) (tgt : Target) (s : State),
    s.ready = true → bytes.length ∈ [1, 2, 4, 16, 128] →
    s.readAnswers a bytes.length (readFrameTarget x r bytes t y) tgt →
    (r = 0x0 ∨ s.diagnostic = true) →
    exec (.readBlock a bytes.length) s =
      .next (record (.returned (.bytes bytes)) (readDone a bytes x r t y tgt s))) ∧
  (∀ (a : Addr) (bytes : List Byte) (x y : Nibble) (tgt : Target) (s : State),
    s.ready = true → bytes.length ∈ [1, 2, 4] → s.writeAnswers a bytes [x, 0x0, 0xF, y] tgt →
    exec (.writeBlock a bytes) s = .next (record (.returned .unit) (writeDone a bytes x y tgt s)))

/-- Vector L1.9 with the reference target (R69): what `writeBlock` writes, `readBlock` reads back, where no
byte lies at an identification or the status address; and a fresh reference target reads 0xFF elsewhere and
0x00 as its status (R69's initial values). That byte i lies at `a + i` modulo 2^28 and is stored when the
cycle ends is the model's choice (log 15). -/
def Obligations.ReferenceTargetReadsBackWhatWasWritten : Prop :=
  (∀ (a : Addr) (data : WriteData) (rt : RefTarget) (s : State),
    s.ready = true → s.target = .reference rt → rt.mem.wf →
    (∀ k < (dataBytes data).length,
      frameAddr a + BitVec.ofNat 28 k ≠ frameAddr s.params.mfrIdAddr ∧
      frameAddr a + BitVec.ofNat 28 k ≠ frameAddr s.params.chipIdAddr ∧
      frameAddr a + BitVec.ofNat 28 k ≠ frameAddr s.params.statusAddr) →
    ∃ t u, exec (.writeBlock a (dataBytes data)) s = .next t ∧
      exec (.readBlock a (dataBytes data).length) t = .next u ∧
      u.results = s.results ++ [.returned .unit, .returned (.bytes (dataBytes data))]) ∧
  (∀ (mfr chip : Byte) (s : State), s.ready = true → s.target = .reference (.initial mfr chip) →
    (∀ a : Addr, frameAddr a ≠ frameAddr s.params.mfrIdAddr → frameAddr a ≠ frameAddr s.params.chipIdAddr →
      ∃ t, exec (.readBlock a 1) s = .next t ∧ t.results = s.results ++ [.returned (.bytes [0xFF])]) ∧
    ∃ t, exec .readStatusRegister s = .next t ∧ t.results = s.results ++ [.returned (.byte 0x00)])

/-- R69: a write cycle stores byte i at `M[a + i]` and leaves every other byte of the reference target's
memory as it was; the status command stores nothing. That `a + i` is modulo 2^28 and that the bytes are
stored when the cycle ends is the model's choice (log 15). -/
def Obligations.ReferenceTargetStoresOnlyTheBytesWritten : Prop :=
  ∀ (a : Addr) (data : WriteData) (rt : RefTarget) (s : State),
    s.ready = true → s.target = .reference rt → rt.mem.wf →
    ∃ t rt', exec (.writeCycle a (dataBytes data)) s = .next t ∧ t.target = .reference rt' ∧
      (frameAddr a = frameAddr s.params.statusAddr ∧ data = .one 0x70 →
        rt'.mem = rt.mem ∧ rt'.statusMode = true) ∧
      (¬(frameAddr a = frameAddr s.params.statusAddr ∧ data = .one 0x70) →
        (∀ k < (dataBytes data).length,
          rt'.mem.read (frameAddr a + BitVec.ofNat 28 k) = (dataBytes data).getD k 0x00) ∧
        (∀ x, (∀ k < (dataBytes data).length, x ≠ frameAddr a + BitVec.ofNat 28 k) →
          rt'.mem.read x = rt.mem.read x))

/-- No other operation stores to the reference target: every byte of its memory is as it was (R69). That a
`writeNibble` stores nothing and a `readNibble` may is the model's choice of when a frame takes effect
(log 15). -/
def Obligations.OtherOperationsLeaveTargetMemory : Prop :=
  ∀ (i : Instr) (s t : State), storesToTarget i = false → exec i s = .next t →
    targetMemory t.target = targetMemory s.target

/-! ### The whole machine -/

/-- R231 with the first column of R43: what process start leaves, and what runs from it. The values of the
working registers there are the model's (log 1) and are not stated. -/
def Obligations.ResetIsProcessStart : Prop :=
  State.reset.lines = Lines.unknown ∧ State.reset.phase = .idle ∧ State.reset.desync = false ∧
  State.reset.prepared = false ∧ State.reset.device = none ∧ State.reset.trace = [] ∧
  State.reset.nibbles = [] ∧ State.reset.reports = [] ∧
  (∀ i, busOperation i = true → exec i State.reset = .fault .notPrepared) ∧
  (∀ m c, ∃ t, exec (.findDevice m c) State.reset = .next t) ∧
  (∀ n k, ∃ t, exec (.sizeCode n k) State.reset = .next t)

/-- Process start is a good state. -/
def Obligations.ResetIsGood : Prop := State.reset.Inv

/-- Every step keeps a good state good. -/
def Obligations.StepKeepsGoodStates : Prop :=
  ∀ s t : State, s.Inv → step s = .next t → t.Inv

/-- The logs and the results only grow, the configuration stays, and the caller's lines are only used up
(R32, R34 to R36, R39, D33). -/
def Obligations.StepContinuesTheRecord : Prop :=
  ∀ s t : State, step s = .next t → Continues s t

/-- R30: from a state that is not desynced, an operation leaves the engine desynced exactly when it ends
in a `SyncError`; from a desynced state only `busInit` clears it, and bus operations of a prepared engine
fault `BusDesynced`. -/
def Obligations.DesyncIsSetBySyncErrorOnly : Prop :=
  ∀ (i : Instr) (s : State),
    (∀ t, exec i s = .next t → s.desync = false →
      (t.desync = true ↔ ∃ c k a v, t.results = s.results ++ [.raised (.syncError c k a v)])) ∧
    (∀ t, exec i s = .next t → s.desync = true → (t.desync = false ↔ i = .busInit)) ∧
    (s.prepared = true → s.desync = true → busOperation i = true → exec i s = .fault .busDesynced)

/-- R214 and R235: after a `SyncError`, `busInit` makes the bus usable again and forgets the device, so an
unlock raises `UnsupportedDevice` until `identify` has run again. -/
def Obligations.BusInitRecovers : Prop :=
  ∀ s : State, ∃ t, exec .busInit s = .next t ∧ t.ready = true ∧ t.phase = .idle ∧
    exec .unlockForWrite t = .next (record (.raised .unsupportedDevice) t)

/-- R41: no operation but `identify` and `busInit` writes the device; `busInit` sets it to none, and
`identify` leaves an entry of the registry, none, or what it was. -/
def Obligations.DeviceIsWrittenByIdentifyAndBusInit : Prop :=
  ∀ (i : Instr) (s t : State), exec i s = .next t →
    (i ≠ .identify → i ≠ .busInit → t.device = s.device) ∧
    (i = .busInit → t.device = none) ∧
    (i = .identify → t.device = s.device ∨ t.device = none ∨
      ∃ d ∈ s.params.registry, t.device = some d)

/-- R35 with R135: only operations that can issue a read cycle add to the report log. -/
def Obligations.ReportsComeFromReadCycles : Prop :=
  ∀ (i : Instr) (s t : State), readsTarget i = false → exec i s = .next t → t.reports = s.reports

/-- R26: the working registers carry nothing from one operation to the next. Two states that differ only
in them come to the same outcome, up to them. So the values log 1 chooses for reset matter nowhere else. -/
def Obligations.WorkingRegistersCarryNothingOver : Prop :=
  ∀ (i : Instr) (s s' : State), s.forgetWork = s'.forgetWork →
    (∀ t, exec i s = .next t → ∃ t', exec i s' = .next t' ∧ t.forgetWork = t'.forgetWork) ∧
    (∀ f, exec i s = .fault f → exec i s' = .fault f)
end

