-- ==== Sys2Proof/Laws/Bits.lean ====
section
/-! SUPPORT. Nibbles, bytes and levels made of one another. -/

namespace Sys2Proof.Machine

/-- LAD[i] carries bit i, 1 as High (R15, R106). -/
theorem nibbleLevel_eq (v : Nibble) (i : Nat) :
    nibbleLevel v i = if v.getLsbD i then .high else .low := rfl

/-- A nibble read back from the levels it puts on LAD is itself (R15, R106, R107). -/
@[simp] theorem nibbleOfLevels_nibbleLevel (v : Nibble) :
    nibbleOfLevels (nibbleLevel v 0) (nibbleLevel v 1) (nibbleLevel v 2) (nibbleLevel v 3) = v := by
  revert v; decide

/-- A byte is made of its two nibbles (R77, R78). -/
@[simp] theorem byteOf_hi_lo (b : Byte) : byteOf (hiNibble b) (loNibble b) = b := by
  revert b; decide

@[simp] theorem loNibble_byteOf (hi lo : Nibble) : loNibble (byteOf hi lo) = lo := by
  revert hi lo; decide

@[simp] theorem hiNibble_byteOf (hi lo : Nibble) : hiNibble (byteOf hi lo) = hi := by
  revert hi lo; decide

end Sys2Proof.Machine
end

