-- ==== Sys2Proof/Laws/Draws.lean ====
section
/-! SUPPORT. The target's answers to several slots in a row. -/

namespace Sys2Proof.Machine

@[simp] theorem draws_zero (p : Params) (log : List NibbleEvent) (t : Target) :
    t.draws p 0 log = ([], t) := rfl

/-- A first answer, then the others. -/
theorem draws_succ (p : Params) (k : Nat) (log : List NibbleEvent) (t : Target) :
    t.draws p (k + 1) log =
      ((t.draw p log).1 :: ((t.draw p log).2.draws p k (log ++ [.target (t.draw p log).1])).1,
        ((t.draw p log).2.draws p k (log ++ [.target (t.draw p log).1])).2) := rfl

/-- As many answers as slots. -/
@[simp] theorem draws_length (p : Params) (k : Nat) (log : List NibbleEvent) (t : Target) :
    (t.draws p k log).1.length = k := by
  induction k generalizing log t with
  | zero => rfl
  | succ k ih => simp [draws_succ, ih]

/-- The answers to `j + k` slots are those to `j`, then those to `k` more. -/
theorem draws_add (p : Params) (j k : Nat) (log : List NibbleEvent) (t : Target) :
    t.draws p (j + k) log =
      ((t.draws p j log).1 ++
          ((t.draws p j log).2.draws p k (log ++ (t.draws p j log).1.map .target)).1,
        ((t.draws p j log).2.draws p k (log ++ (t.draws p j log).1.map .target)).2) := by
  induction j generalizing log t with
  | zero => simp
  | succ j ih => simp [Nat.succ_add, draws_succ, ih]

/-- Two slots, two answers. -/
theorem draws_two (p : Params) (log : List NibbleEvent) (t : Target) :
    ∃ v w, (t.draws p 2 log).1 = [v, w] := ⟨_, _, rfl⟩

/-- A target that answers from its list gives the list, in order. -/
theorem draws_oracle (p : Params) (log : List NibbleEvent) (vs rest : List Nibble) :
    (Target.oracle (vs ++ rest)).draws p vs.length log = (vs, .oracle rest) := by
  induction vs generalizing log with
  | nil => rfl
  | cons v vs ih => simp [draws_succ, Target.draw, ih]

/-- `draws_oracle` for a number of slots equal to the length of the list. -/
theorem draws_oracle_of_length (p : Params) (log : List NibbleEvent) (k : Nat)
    (vs rest : List Nibble) (h : vs.length = k) :
    (Target.oracle (vs ++ rest)).draws p k log = (vs, .oracle rest) := by
  subst h; exact draws_oracle p log vs rest

end Sys2Proof.Machine
end

