-- ==== Sys2Proof/Laws/State.lean ====
section
/-! SUPPORT. The small lemmas of every named update of the state: one per field, so that no proof
unfolds a record update. -/

namespace Sys2Proof.Machine

section

variable (s : State)

/-! ### setDir -/

@[simp] theorem setDir_lines (line : Line) (d : Direction) : (setDir line d s).lines = s.lines.turn line d := rfl
@[simp] theorem setDir_addr (line : Line) (d : Direction) : (setDir line d s).addr = s.addr := rfl
@[simp] theorem setDir_len (line : Line) (d : Direction) : (setDir line d s).len = s.len := rfl
@[simp] theorem setDir_kind (line : Line) (d : Direction) : (setDir line d s).kind = s.kind := rfl
@[simp] theorem setDir_tx (line : Line) (d : Direction) : (setDir line d s).tx = s.tx := rfl
@[simp] theorem setDir_rx (line : Line) (d : Direction) : (setDir line d s).rx = s.rx := rfl
@[simp] theorem setDir_idx (line : Line) (d : Direction) : (setDir line d s).idx = s.idx := rfl
@[simp] theorem setDir_lo (line : Line) (d : Direction) : (setDir line d s).lo = s.lo := rfl
@[simp] theorem setDir_sample (line : Line) (d : Direction) : (setDir line d s).sample = s.sample := rfl
@[simp] theorem setDir_warning (line : Line) (d : Direction) : (setDir line d s).warning = s.warning := rfl
@[simp] theorem setDir_phase (line : Line) (d : Direction) : (setDir line d s).phase = s.phase := rfl
@[simp] theorem setDir_desync (line : Line) (d : Direction) : (setDir line d s).desync = s.desync := rfl
@[simp] theorem setDir_prepared (line : Line) (d : Direction) : (setDir line d s).prepared = s.prepared := rfl
@[simp] theorem setDir_diagnostic (line : Line) (d : Direction) : (setDir line d s).diagnostic = s.diagnostic := rfl
@[simp] theorem setDir_device (line : Line) (d : Direction) : (setDir line d s).device = s.device := rfl
@[simp] theorem setDir_params (line : Line) (d : Direction) : (setDir line d s).params = s.params := rfl
@[simp] theorem setDir_trace (line : Line) (d : Direction) : (setDir line d s).trace = s.trace ++ [.dir line d] := rfl
@[simp] theorem setDir_nibbles (line : Line) (d : Direction) : (setDir line d s).nibbles = s.nibbles := rfl
@[simp] theorem setDir_reports (line : Line) (d : Direction) : (setDir line d s).reports = s.reports := rfl
@[simp] theorem setDir_target (line : Line) (d : Direction) : (setDir line d s).target = s.target := rfl
@[simp] theorem setDir_calls (line : Line) (d : Direction) : (setDir line d s).calls = s.calls := rfl
@[simp] theorem setDir_results (line : Line) (d : Direction) : (setDir line d s).results = s.results := rfl
@[simp] theorem setDir_polls (line : Line) (d : Direction) : (setDir line d s).polls = s.polls := rfl

/-! ### writeLevel -/

@[simp] theorem writeLevel_lines (line : Line) (l : Level) : (writeLevel line l s).lines = s.lines.drive line l := rfl
@[simp] theorem writeLevel_addr (line : Line) (l : Level) : (writeLevel line l s).addr = s.addr := rfl
@[simp] theorem writeLevel_len (line : Line) (l : Level) : (writeLevel line l s).len = s.len := rfl
@[simp] theorem writeLevel_kind (line : Line) (l : Level) : (writeLevel line l s).kind = s.kind := rfl
@[simp] theorem writeLevel_tx (line : Line) (l : Level) : (writeLevel line l s).tx = s.tx := rfl
@[simp] theorem writeLevel_rx (line : Line) (l : Level) : (writeLevel line l s).rx = s.rx := rfl
@[simp] theorem writeLevel_idx (line : Line) (l : Level) : (writeLevel line l s).idx = s.idx := rfl
@[simp] theorem writeLevel_lo (line : Line) (l : Level) : (writeLevel line l s).lo = s.lo := rfl
@[simp] theorem writeLevel_sample (line : Line) (l : Level) : (writeLevel line l s).sample = s.sample := rfl
@[simp] theorem writeLevel_warning (line : Line) (l : Level) : (writeLevel line l s).warning = s.warning := rfl
@[simp] theorem writeLevel_phase (line : Line) (l : Level) : (writeLevel line l s).phase = s.phase := rfl
@[simp] theorem writeLevel_desync (line : Line) (l : Level) : (writeLevel line l s).desync = s.desync := rfl
@[simp] theorem writeLevel_prepared (line : Line) (l : Level) : (writeLevel line l s).prepared = s.prepared := rfl
@[simp] theorem writeLevel_diagnostic (line : Line) (l : Level) : (writeLevel line l s).diagnostic = s.diagnostic := rfl
@[simp] theorem writeLevel_device (line : Line) (l : Level) : (writeLevel line l s).device = s.device := rfl
@[simp] theorem writeLevel_params (line : Line) (l : Level) : (writeLevel line l s).params = s.params := rfl
@[simp] theorem writeLevel_trace (line : Line) (l : Level) : (writeLevel line l s).trace = s.trace ++ [.lvl line l] := rfl
@[simp] theorem writeLevel_nibbles (line : Line) (l : Level) : (writeLevel line l s).nibbles = s.nibbles := rfl
@[simp] theorem writeLevel_reports (line : Line) (l : Level) : (writeLevel line l s).reports = s.reports := rfl
@[simp] theorem writeLevel_target (line : Line) (l : Level) : (writeLevel line l s).target = s.target := rfl
@[simp] theorem writeLevel_calls (line : Line) (l : Level) : (writeLevel line l s).calls = s.calls := rfl
@[simp] theorem writeLevel_results (line : Line) (l : Level) : (writeLevel line l s).results = s.results := rfl
@[simp] theorem writeLevel_polls (line : Line) (l : Level) : (writeLevel line l s).polls = s.polls := rfl

/-! ### readLevel -/

@[simp] theorem readLevel_lines (line : Line) (l : Level) : (readLevel line l s).lines = s.lines := rfl
@[simp] theorem readLevel_addr (line : Line) (l : Level) : (readLevel line l s).addr = s.addr := rfl
@[simp] theorem readLevel_len (line : Line) (l : Level) : (readLevel line l s).len = s.len := rfl
@[simp] theorem readLevel_kind (line : Line) (l : Level) : (readLevel line l s).kind = s.kind := rfl
@[simp] theorem readLevel_tx (line : Line) (l : Level) : (readLevel line l s).tx = s.tx := rfl
@[simp] theorem readLevel_rx (line : Line) (l : Level) : (readLevel line l s).rx = s.rx := rfl
@[simp] theorem readLevel_idx (line : Line) (l : Level) : (readLevel line l s).idx = s.idx := rfl
@[simp] theorem readLevel_lo (line : Line) (l : Level) : (readLevel line l s).lo = s.lo := rfl
@[simp] theorem readLevel_sample (line : Line) (l : Level) : (readLevel line l s).sample = s.sample := rfl
@[simp] theorem readLevel_warning (line : Line) (l : Level) : (readLevel line l s).warning = s.warning := rfl
@[simp] theorem readLevel_phase (line : Line) (l : Level) : (readLevel line l s).phase = s.phase := rfl
@[simp] theorem readLevel_desync (line : Line) (l : Level) : (readLevel line l s).desync = s.desync := rfl
@[simp] theorem readLevel_prepared (line : Line) (l : Level) : (readLevel line l s).prepared = s.prepared := rfl
@[simp] theorem readLevel_diagnostic (line : Line) (l : Level) : (readLevel line l s).diagnostic = s.diagnostic := rfl
@[simp] theorem readLevel_device (line : Line) (l : Level) : (readLevel line l s).device = s.device := rfl
@[simp] theorem readLevel_params (line : Line) (l : Level) : (readLevel line l s).params = s.params := rfl
@[simp] theorem readLevel_trace (line : Line) (l : Level) : (readLevel line l s).trace = s.trace ++ [.smp line l] := rfl
@[simp] theorem readLevel_nibbles (line : Line) (l : Level) : (readLevel line l s).nibbles = s.nibbles := rfl
@[simp] theorem readLevel_reports (line : Line) (l : Level) : (readLevel line l s).reports = s.reports := rfl
@[simp] theorem readLevel_target (line : Line) (l : Level) : (readLevel line l s).target = s.target := rfl
@[simp] theorem readLevel_calls (line : Line) (l : Level) : (readLevel line l s).calls = s.calls := rfl
@[simp] theorem readLevel_results (line : Line) (l : Level) : (readLevel line l s).results = s.results := rfl
@[simp] theorem readLevel_polls (line : Line) (l : Level) : (readLevel line l s).polls = s.polls := rfl

/-! ### delay -/

@[simp] theorem delay_lines (t : DelayName) : (delay t s).lines = s.lines := rfl
@[simp] theorem delay_addr (t : DelayName) : (delay t s).addr = s.addr := rfl
@[simp] theorem delay_len (t : DelayName) : (delay t s).len = s.len := rfl
@[simp] theorem delay_kind (t : DelayName) : (delay t s).kind = s.kind := rfl
@[simp] theorem delay_tx (t : DelayName) : (delay t s).tx = s.tx := rfl
@[simp] theorem delay_rx (t : DelayName) : (delay t s).rx = s.rx := rfl
@[simp] theorem delay_idx (t : DelayName) : (delay t s).idx = s.idx := rfl
@[simp] theorem delay_lo (t : DelayName) : (delay t s).lo = s.lo := rfl
@[simp] theorem delay_sample (t : DelayName) : (delay t s).sample = s.sample := rfl
@[simp] theorem delay_warning (t : DelayName) : (delay t s).warning = s.warning := rfl
@[simp] theorem delay_phase (t : DelayName) : (delay t s).phase = s.phase := rfl
@[simp] theorem delay_desync (t : DelayName) : (delay t s).desync = s.desync := rfl
@[simp] theorem delay_prepared (t : DelayName) : (delay t s).prepared = s.prepared := rfl
@[simp] theorem delay_diagnostic (t : DelayName) : (delay t s).diagnostic = s.diagnostic := rfl
@[simp] theorem delay_device (t : DelayName) : (delay t s).device = s.device := rfl
@[simp] theorem delay_params (t : DelayName) : (delay t s).params = s.params := rfl
@[simp] theorem delay_trace (t : DelayName) : (delay t s).trace = s.trace ++ [.wait t] := rfl
@[simp] theorem delay_nibbles (t : DelayName) : (delay t s).nibbles = s.nibbles := rfl
@[simp] theorem delay_reports (t : DelayName) : (delay t s).reports = s.reports := rfl
@[simp] theorem delay_target (t : DelayName) : (delay t s).target = s.target := rfl
@[simp] theorem delay_calls (t : DelayName) : (delay t s).calls = s.calls := rfl
@[simp] theorem delay_results (t : DelayName) : (delay t s).results = s.results := rfl
@[simp] theorem delay_polls (t : DelayName) : (delay t s).polls = s.polls := rfl

/-! ### logNibble -/

@[simp] theorem logNibble_lines (e : NibbleEvent) : (logNibble e s).lines = s.lines := rfl
@[simp] theorem logNibble_addr (e : NibbleEvent) : (logNibble e s).addr = s.addr := rfl
@[simp] theorem logNibble_len (e : NibbleEvent) : (logNibble e s).len = s.len := rfl
@[simp] theorem logNibble_kind (e : NibbleEvent) : (logNibble e s).kind = s.kind := rfl
@[simp] theorem logNibble_tx (e : NibbleEvent) : (logNibble e s).tx = s.tx := rfl
@[simp] theorem logNibble_rx (e : NibbleEvent) : (logNibble e s).rx = s.rx := rfl
@[simp] theorem logNibble_idx (e : NibbleEvent) : (logNibble e s).idx = s.idx := rfl
@[simp] theorem logNibble_lo (e : NibbleEvent) : (logNibble e s).lo = s.lo := rfl
@[simp] theorem logNibble_sample (e : NibbleEvent) : (logNibble e s).sample = s.sample := rfl
@[simp] theorem logNibble_warning (e : NibbleEvent) : (logNibble e s).warning = s.warning := rfl
@[simp] theorem logNibble_phase (e : NibbleEvent) : (logNibble e s).phase = s.phase := rfl
@[simp] theorem logNibble_desync (e : NibbleEvent) : (logNibble e s).desync = s.desync := rfl
@[simp] theorem logNibble_prepared (e : NibbleEvent) : (logNibble e s).prepared = s.prepared := rfl
@[simp] theorem logNibble_diagnostic (e : NibbleEvent) : (logNibble e s).diagnostic = s.diagnostic := rfl
@[simp] theorem logNibble_device (e : NibbleEvent) : (logNibble e s).device = s.device := rfl
@[simp] theorem logNibble_params (e : NibbleEvent) : (logNibble e s).params = s.params := rfl
@[simp] theorem logNibble_trace (e : NibbleEvent) : (logNibble e s).trace = s.trace := rfl
@[simp] theorem logNibble_nibbles (e : NibbleEvent) : (logNibble e s).nibbles = s.nibbles ++ [e] := rfl
@[simp] theorem logNibble_reports (e : NibbleEvent) : (logNibble e s).reports = s.reports := rfl
@[simp] theorem logNibble_target (e : NibbleEvent) : (logNibble e s).target = s.target := rfl
@[simp] theorem logNibble_calls (e : NibbleEvent) : (logNibble e s).calls = s.calls := rfl
@[simp] theorem logNibble_results (e : NibbleEvent) : (logNibble e s).results = s.results := rfl
@[simp] theorem logNibble_polls (e : NibbleEvent) : (logNibble e s).polls = s.polls := rfl

/-! ### report -/

@[simp] theorem report_lines (r : Report) : (report r s).lines = s.lines := rfl
@[simp] theorem report_addr (r : Report) : (report r s).addr = s.addr := rfl
@[simp] theorem report_len (r : Report) : (report r s).len = s.len := rfl
@[simp] theorem report_kind (r : Report) : (report r s).kind = s.kind := rfl
@[simp] theorem report_tx (r : Report) : (report r s).tx = s.tx := rfl
@[simp] theorem report_rx (r : Report) : (report r s).rx = s.rx := rfl
@[simp] theorem report_idx (r : Report) : (report r s).idx = s.idx := rfl
@[simp] theorem report_lo (r : Report) : (report r s).lo = s.lo := rfl
@[simp] theorem report_sample (r : Report) : (report r s).sample = s.sample := rfl
@[simp] theorem report_warning (r : Report) : (report r s).warning = s.warning := rfl
@[simp] theorem report_phase (r : Report) : (report r s).phase = s.phase := rfl
@[simp] theorem report_desync (r : Report) : (report r s).desync = s.desync := rfl
@[simp] theorem report_prepared (r : Report) : (report r s).prepared = s.prepared := rfl
@[simp] theorem report_diagnostic (r : Report) : (report r s).diagnostic = s.diagnostic := rfl
@[simp] theorem report_device (r : Report) : (report r s).device = s.device := rfl
@[simp] theorem report_params (r : Report) : (report r s).params = s.params := rfl
@[simp] theorem report_trace (r : Report) : (report r s).trace = s.trace := rfl
@[simp] theorem report_nibbles (r : Report) : (report r s).nibbles = s.nibbles := rfl
@[simp] theorem report_reports (r : Report) : (report r s).reports = s.reports ++ [r] := rfl
@[simp] theorem report_target (r : Report) : (report r s).target = s.target := rfl
@[simp] theorem report_calls (r : Report) : (report r s).calls = s.calls := rfl
@[simp] theorem report_results (r : Report) : (report r s).results = s.results := rfl
@[simp] theorem report_polls (r : Report) : (report r s).polls = s.polls := rfl

/-! ### enter -/

@[simp] theorem enter_lines (p : Phase) : (enter p s).lines = s.lines := rfl
@[simp] theorem enter_addr (p : Phase) : (enter p s).addr = s.addr := rfl
@[simp] theorem enter_len (p : Phase) : (enter p s).len = s.len := rfl
@[simp] theorem enter_kind (p : Phase) : (enter p s).kind = s.kind := rfl
@[simp] theorem enter_tx (p : Phase) : (enter p s).tx = s.tx := rfl
@[simp] theorem enter_rx (p : Phase) : (enter p s).rx = s.rx := rfl
@[simp] theorem enter_idx (p : Phase) : (enter p s).idx = s.idx := rfl
@[simp] theorem enter_lo (p : Phase) : (enter p s).lo = s.lo := rfl
@[simp] theorem enter_sample (p : Phase) : (enter p s).sample = s.sample := rfl
@[simp] theorem enter_warning (p : Phase) : (enter p s).warning = s.warning := rfl
@[simp] theorem enter_phase (p : Phase) : (enter p s).phase = p := rfl
@[simp] theorem enter_desync (p : Phase) : (enter p s).desync = s.desync := rfl
@[simp] theorem enter_prepared (p : Phase) : (enter p s).prepared = s.prepared := rfl
@[simp] theorem enter_diagnostic (p : Phase) : (enter p s).diagnostic = s.diagnostic := rfl
@[simp] theorem enter_device (p : Phase) : (enter p s).device = s.device := rfl
@[simp] theorem enter_params (p : Phase) : (enter p s).params = s.params := rfl
@[simp] theorem enter_trace (p : Phase) : (enter p s).trace = s.trace := rfl
@[simp] theorem enter_nibbles (p : Phase) : (enter p s).nibbles = s.nibbles := rfl
@[simp] theorem enter_reports (p : Phase) : (enter p s).reports = s.reports := rfl
@[simp] theorem enter_target (p : Phase) : (enter p s).target = s.target := rfl
@[simp] theorem enter_calls (p : Phase) : (enter p s).calls = s.calls := rfl
@[simp] theorem enter_results (p : Phase) : (enter p s).results = s.results := rfl
@[simp] theorem enter_polls (p : Phase) : (enter p s).polls = s.polls := rfl

/-! ### setSample -/

@[simp] theorem setSample_lines (v : Nibble) : (setSample v s).lines = s.lines := rfl
@[simp] theorem setSample_addr (v : Nibble) : (setSample v s).addr = s.addr := rfl
@[simp] theorem setSample_len (v : Nibble) : (setSample v s).len = s.len := rfl
@[simp] theorem setSample_kind (v : Nibble) : (setSample v s).kind = s.kind := rfl
@[simp] theorem setSample_tx (v : Nibble) : (setSample v s).tx = s.tx := rfl
@[simp] theorem setSample_rx (v : Nibble) : (setSample v s).rx = s.rx := rfl
@[simp] theorem setSample_idx (v : Nibble) : (setSample v s).idx = s.idx := rfl
@[simp] theorem setSample_lo (v : Nibble) : (setSample v s).lo = s.lo := rfl
@[simp] theorem setSample_sample (v : Nibble) : (setSample v s).sample = v := rfl
@[simp] theorem setSample_warning (v : Nibble) : (setSample v s).warning = s.warning := rfl
@[simp] theorem setSample_phase (v : Nibble) : (setSample v s).phase = s.phase := rfl
@[simp] theorem setSample_desync (v : Nibble) : (setSample v s).desync = s.desync := rfl
@[simp] theorem setSample_prepared (v : Nibble) : (setSample v s).prepared = s.prepared := rfl
@[simp] theorem setSample_diagnostic (v : Nibble) : (setSample v s).diagnostic = s.diagnostic := rfl
@[simp] theorem setSample_device (v : Nibble) : (setSample v s).device = s.device := rfl
@[simp] theorem setSample_params (v : Nibble) : (setSample v s).params = s.params := rfl
@[simp] theorem setSample_trace (v : Nibble) : (setSample v s).trace = s.trace := rfl
@[simp] theorem setSample_nibbles (v : Nibble) : (setSample v s).nibbles = s.nibbles := rfl
@[simp] theorem setSample_reports (v : Nibble) : (setSample v s).reports = s.reports := rfl
@[simp] theorem setSample_target (v : Nibble) : (setSample v s).target = s.target := rfl
@[simp] theorem setSample_calls (v : Nibble) : (setSample v s).calls = s.calls := rfl
@[simp] theorem setSample_results (v : Nibble) : (setSample v s).results = s.results := rfl
@[simp] theorem setSample_polls (v : Nibble) : (setSample v s).polls = s.polls := rfl

/-! ### setLo -/

@[simp] theorem setLo_lines (v : Nibble) : (setLo v s).lines = s.lines := rfl
@[simp] theorem setLo_addr (v : Nibble) : (setLo v s).addr = s.addr := rfl
@[simp] theorem setLo_len (v : Nibble) : (setLo v s).len = s.len := rfl
@[simp] theorem setLo_kind (v : Nibble) : (setLo v s).kind = s.kind := rfl
@[simp] theorem setLo_tx (v : Nibble) : (setLo v s).tx = s.tx := rfl
@[simp] theorem setLo_rx (v : Nibble) : (setLo v s).rx = s.rx := rfl
@[simp] theorem setLo_idx (v : Nibble) : (setLo v s).idx = s.idx := rfl
@[simp] theorem setLo_lo (v : Nibble) : (setLo v s).lo = v := rfl
@[simp] theorem setLo_sample (v : Nibble) : (setLo v s).sample = s.sample := rfl
@[simp] theorem setLo_warning (v : Nibble) : (setLo v s).warning = s.warning := rfl
@[simp] theorem setLo_phase (v : Nibble) : (setLo v s).phase = s.phase := rfl
@[simp] theorem setLo_desync (v : Nibble) : (setLo v s).desync = s.desync := rfl
@[simp] theorem setLo_prepared (v : Nibble) : (setLo v s).prepared = s.prepared := rfl
@[simp] theorem setLo_diagnostic (v : Nibble) : (setLo v s).diagnostic = s.diagnostic := rfl
@[simp] theorem setLo_device (v : Nibble) : (setLo v s).device = s.device := rfl
@[simp] theorem setLo_params (v : Nibble) : (setLo v s).params = s.params := rfl
@[simp] theorem setLo_trace (v : Nibble) : (setLo v s).trace = s.trace := rfl
@[simp] theorem setLo_nibbles (v : Nibble) : (setLo v s).nibbles = s.nibbles := rfl
@[simp] theorem setLo_reports (v : Nibble) : (setLo v s).reports = s.reports := rfl
@[simp] theorem setLo_target (v : Nibble) : (setLo v s).target = s.target := rfl
@[simp] theorem setLo_calls (v : Nibble) : (setLo v s).calls = s.calls := rfl
@[simp] theorem setLo_results (v : Nibble) : (setLo v s).results = s.results := rfl
@[simp] theorem setLo_polls (v : Nibble) : (setLo v s).polls = s.polls := rfl

/-! ### setIdx -/

@[simp] theorem setIdx_lines (i : Nat) : (setIdx i s).lines = s.lines := rfl
@[simp] theorem setIdx_addr (i : Nat) : (setIdx i s).addr = s.addr := rfl
@[simp] theorem setIdx_len (i : Nat) : (setIdx i s).len = s.len := rfl
@[simp] theorem setIdx_kind (i : Nat) : (setIdx i s).kind = s.kind := rfl
@[simp] theorem setIdx_tx (i : Nat) : (setIdx i s).tx = s.tx := rfl
@[simp] theorem setIdx_rx (i : Nat) : (setIdx i s).rx = s.rx := rfl
@[simp] theorem setIdx_idx (i : Nat) : (setIdx i s).idx = i := rfl
@[simp] theorem setIdx_lo (i : Nat) : (setIdx i s).lo = s.lo := rfl
@[simp] theorem setIdx_sample (i : Nat) : (setIdx i s).sample = s.sample := rfl
@[simp] theorem setIdx_warning (i : Nat) : (setIdx i s).warning = s.warning := rfl
@[simp] theorem setIdx_phase (i : Nat) : (setIdx i s).phase = s.phase := rfl
@[simp] theorem setIdx_desync (i : Nat) : (setIdx i s).desync = s.desync := rfl
@[simp] theorem setIdx_prepared (i : Nat) : (setIdx i s).prepared = s.prepared := rfl
@[simp] theorem setIdx_diagnostic (i : Nat) : (setIdx i s).diagnostic = s.diagnostic := rfl
@[simp] theorem setIdx_device (i : Nat) : (setIdx i s).device = s.device := rfl
@[simp] theorem setIdx_params (i : Nat) : (setIdx i s).params = s.params := rfl
@[simp] theorem setIdx_trace (i : Nat) : (setIdx i s).trace = s.trace := rfl
@[simp] theorem setIdx_nibbles (i : Nat) : (setIdx i s).nibbles = s.nibbles := rfl
@[simp] theorem setIdx_reports (i : Nat) : (setIdx i s).reports = s.reports := rfl
@[simp] theorem setIdx_target (i : Nat) : (setIdx i s).target = s.target := rfl
@[simp] theorem setIdx_calls (i : Nat) : (setIdx i s).calls = s.calls := rfl
@[simp] theorem setIdx_results (i : Nat) : (setIdx i s).results = s.results := rfl
@[simp] theorem setIdx_polls (i : Nat) : (setIdx i s).polls = s.polls := rfl

/-! ### pushRx -/

@[simp] theorem pushRx_lines (b : Byte) : (pushRx b s).lines = s.lines := rfl
@[simp] theorem pushRx_addr (b : Byte) : (pushRx b s).addr = s.addr := rfl
@[simp] theorem pushRx_len (b : Byte) : (pushRx b s).len = s.len := rfl
@[simp] theorem pushRx_kind (b : Byte) : (pushRx b s).kind = s.kind := rfl
@[simp] theorem pushRx_tx (b : Byte) : (pushRx b s).tx = s.tx := rfl
@[simp] theorem pushRx_rx (b : Byte) : (pushRx b s).rx = s.rx ++ [b] := rfl
@[simp] theorem pushRx_idx (b : Byte) : (pushRx b s).idx = s.idx := rfl
@[simp] theorem pushRx_lo (b : Byte) : (pushRx b s).lo = s.lo := rfl
@[simp] theorem pushRx_sample (b : Byte) : (pushRx b s).sample = s.sample := rfl
@[simp] theorem pushRx_warning (b : Byte) : (pushRx b s).warning = s.warning := rfl
@[simp] theorem pushRx_phase (b : Byte) : (pushRx b s).phase = s.phase := rfl
@[simp] theorem pushRx_desync (b : Byte) : (pushRx b s).desync = s.desync := rfl
@[simp] theorem pushRx_prepared (b : Byte) : (pushRx b s).prepared = s.prepared := rfl
@[simp] theorem pushRx_diagnostic (b : Byte) : (pushRx b s).diagnostic = s.diagnostic := rfl
@[simp] theorem pushRx_device (b : Byte) : (pushRx b s).device = s.device := rfl
@[simp] theorem pushRx_params (b : Byte) : (pushRx b s).params = s.params := rfl
@[simp] theorem pushRx_trace (b : Byte) : (pushRx b s).trace = s.trace := rfl
@[simp] theorem pushRx_nibbles (b : Byte) : (pushRx b s).nibbles = s.nibbles := rfl
@[simp] theorem pushRx_reports (b : Byte) : (pushRx b s).reports = s.reports := rfl
@[simp] theorem pushRx_target (b : Byte) : (pushRx b s).target = s.target := rfl
@[simp] theorem pushRx_calls (b : Byte) : (pushRx b s).calls = s.calls := rfl
@[simp] theorem pushRx_results (b : Byte) : (pushRx b s).results = s.results := rfl
@[simp] theorem pushRx_polls (b : Byte) : (pushRx b s).polls = s.polls := rfl

/-! ### setWarning -/

@[simp] theorem setWarning_lines : (setWarning s).lines = s.lines := rfl
@[simp] theorem setWarning_addr : (setWarning s).addr = s.addr := rfl
@[simp] theorem setWarning_len : (setWarning s).len = s.len := rfl
@[simp] theorem setWarning_kind : (setWarning s).kind = s.kind := rfl
@[simp] theorem setWarning_tx : (setWarning s).tx = s.tx := rfl
@[simp] theorem setWarning_rx : (setWarning s).rx = s.rx := rfl
@[simp] theorem setWarning_idx : (setWarning s).idx = s.idx := rfl
@[simp] theorem setWarning_lo : (setWarning s).lo = s.lo := rfl
@[simp] theorem setWarning_sample : (setWarning s).sample = s.sample := rfl
@[simp] theorem setWarning_warning : (setWarning s).warning = true := rfl
@[simp] theorem setWarning_phase : (setWarning s).phase = s.phase := rfl
@[simp] theorem setWarning_desync : (setWarning s).desync = s.desync := rfl
@[simp] theorem setWarning_prepared : (setWarning s).prepared = s.prepared := rfl
@[simp] theorem setWarning_diagnostic : (setWarning s).diagnostic = s.diagnostic := rfl
@[simp] theorem setWarning_device : (setWarning s).device = s.device := rfl
@[simp] theorem setWarning_params : (setWarning s).params = s.params := rfl
@[simp] theorem setWarning_trace : (setWarning s).trace = s.trace := rfl
@[simp] theorem setWarning_nibbles : (setWarning s).nibbles = s.nibbles := rfl
@[simp] theorem setWarning_reports : (setWarning s).reports = s.reports := rfl
@[simp] theorem setWarning_target : (setWarning s).target = s.target := rfl
@[simp] theorem setWarning_calls : (setWarning s).calls = s.calls := rfl
@[simp] theorem setWarning_results : (setWarning s).results = s.results := rfl
@[simp] theorem setWarning_polls : (setWarning s).polls = s.polls := rfl

/-! ### setDevice -/

@[simp] theorem setDevice_lines (d : Option DeviceDescriptor) : (setDevice d s).lines = s.lines := rfl
@[simp] theorem setDevice_addr (d : Option DeviceDescriptor) : (setDevice d s).addr = s.addr := rfl
@[simp] theorem setDevice_len (d : Option DeviceDescriptor) : (setDevice d s).len = s.len := rfl
@[simp] theorem setDevice_kind (d : Option DeviceDescriptor) : (setDevice d s).kind = s.kind := rfl
@[simp] theorem setDevice_tx (d : Option DeviceDescriptor) : (setDevice d s).tx = s.tx := rfl
@[simp] theorem setDevice_rx (d : Option DeviceDescriptor) : (setDevice d s).rx = s.rx := rfl
@[simp] theorem setDevice_idx (d : Option DeviceDescriptor) : (setDevice d s).idx = s.idx := rfl
@[simp] theorem setDevice_lo (d : Option DeviceDescriptor) : (setDevice d s).lo = s.lo := rfl
@[simp] theorem setDevice_sample (d : Option DeviceDescriptor) : (setDevice d s).sample = s.sample := rfl
@[simp] theorem setDevice_warning (d : Option DeviceDescriptor) : (setDevice d s).warning = s.warning := rfl
@[simp] theorem setDevice_phase (d : Option DeviceDescriptor) : (setDevice d s).phase = s.phase := rfl
@[simp] theorem setDevice_desync (d : Option DeviceDescriptor) : (setDevice d s).desync = s.desync := rfl
@[simp] theorem setDevice_prepared (d : Option DeviceDescriptor) : (setDevice d s).prepared = s.prepared := rfl
@[simp] theorem setDevice_diagnostic (d : Option DeviceDescriptor) : (setDevice d s).diagnostic = s.diagnostic := rfl
@[simp] theorem setDevice_device (d : Option DeviceDescriptor) : (setDevice d s).device = d := rfl
@[simp] theorem setDevice_params (d : Option DeviceDescriptor) : (setDevice d s).params = s.params := rfl
@[simp] theorem setDevice_trace (d : Option DeviceDescriptor) : (setDevice d s).trace = s.trace := rfl
@[simp] theorem setDevice_nibbles (d : Option DeviceDescriptor) : (setDevice d s).nibbles = s.nibbles := rfl
@[simp] theorem setDevice_reports (d : Option DeviceDescriptor) : (setDevice d s).reports = s.reports := rfl
@[simp] theorem setDevice_target (d : Option DeviceDescriptor) : (setDevice d s).target = s.target := rfl
@[simp] theorem setDevice_calls (d : Option DeviceDescriptor) : (setDevice d s).calls = s.calls := rfl
@[simp] theorem setDevice_results (d : Option DeviceDescriptor) : (setDevice d s).results = s.results := rfl
@[simp] theorem setDevice_polls (d : Option DeviceDescriptor) : (setDevice d s).polls = s.polls := rfl

/-! ### setPolls -/

@[simp] theorem setPolls_lines (n : Nat) : (setPolls n s).lines = s.lines := rfl
@[simp] theorem setPolls_addr (n : Nat) : (setPolls n s).addr = s.addr := rfl
@[simp] theorem setPolls_len (n : Nat) : (setPolls n s).len = s.len := rfl
@[simp] theorem setPolls_kind (n : Nat) : (setPolls n s).kind = s.kind := rfl
@[simp] theorem setPolls_tx (n : Nat) : (setPolls n s).tx = s.tx := rfl
@[simp] theorem setPolls_rx (n : Nat) : (setPolls n s).rx = s.rx := rfl
@[simp] theorem setPolls_idx (n : Nat) : (setPolls n s).idx = s.idx := rfl
@[simp] theorem setPolls_lo (n : Nat) : (setPolls n s).lo = s.lo := rfl
@[simp] theorem setPolls_sample (n : Nat) : (setPolls n s).sample = s.sample := rfl
@[simp] theorem setPolls_warning (n : Nat) : (setPolls n s).warning = s.warning := rfl
@[simp] theorem setPolls_phase (n : Nat) : (setPolls n s).phase = s.phase := rfl
@[simp] theorem setPolls_desync (n : Nat) : (setPolls n s).desync = s.desync := rfl
@[simp] theorem setPolls_prepared (n : Nat) : (setPolls n s).prepared = s.prepared := rfl
@[simp] theorem setPolls_diagnostic (n : Nat) : (setPolls n s).diagnostic = s.diagnostic := rfl
@[simp] theorem setPolls_device (n : Nat) : (setPolls n s).device = s.device := rfl
@[simp] theorem setPolls_params (n : Nat) : (setPolls n s).params = s.params := rfl
@[simp] theorem setPolls_trace (n : Nat) : (setPolls n s).trace = s.trace := rfl
@[simp] theorem setPolls_nibbles (n : Nat) : (setPolls n s).nibbles = s.nibbles := rfl
@[simp] theorem setPolls_reports (n : Nat) : (setPolls n s).reports = s.reports := rfl
@[simp] theorem setPolls_target (n : Nat) : (setPolls n s).target = s.target := rfl
@[simp] theorem setPolls_calls (n : Nat) : (setPolls n s).calls = s.calls := rfl
@[simp] theorem setPolls_results (n : Nat) : (setPolls n s).results = s.results := rfl
@[simp] theorem setPolls_polls (n : Nat) : (setPolls n s).polls = some n := rfl

/-! ### setTarget -/

@[simp] theorem setTarget_lines (t : Target) : (setTarget t s).lines = s.lines := rfl
@[simp] theorem setTarget_addr (t : Target) : (setTarget t s).addr = s.addr := rfl
@[simp] theorem setTarget_len (t : Target) : (setTarget t s).len = s.len := rfl
@[simp] theorem setTarget_kind (t : Target) : (setTarget t s).kind = s.kind := rfl
@[simp] theorem setTarget_tx (t : Target) : (setTarget t s).tx = s.tx := rfl
@[simp] theorem setTarget_rx (t : Target) : (setTarget t s).rx = s.rx := rfl
@[simp] theorem setTarget_idx (t : Target) : (setTarget t s).idx = s.idx := rfl
@[simp] theorem setTarget_lo (t : Target) : (setTarget t s).lo = s.lo := rfl
@[simp] theorem setTarget_sample (t : Target) : (setTarget t s).sample = s.sample := rfl
@[simp] theorem setTarget_warning (t : Target) : (setTarget t s).warning = s.warning := rfl
@[simp] theorem setTarget_phase (t : Target) : (setTarget t s).phase = s.phase := rfl
@[simp] theorem setTarget_desync (t : Target) : (setTarget t s).desync = s.desync := rfl
@[simp] theorem setTarget_prepared (t : Target) : (setTarget t s).prepared = s.prepared := rfl
@[simp] theorem setTarget_diagnostic (t : Target) : (setTarget t s).diagnostic = s.diagnostic := rfl
@[simp] theorem setTarget_device (t : Target) : (setTarget t s).device = s.device := rfl
@[simp] theorem setTarget_params (t : Target) : (setTarget t s).params = s.params := rfl
@[simp] theorem setTarget_trace (t : Target) : (setTarget t s).trace = s.trace := rfl
@[simp] theorem setTarget_nibbles (t : Target) : (setTarget t s).nibbles = s.nibbles := rfl
@[simp] theorem setTarget_reports (t : Target) : (setTarget t s).reports = s.reports := rfl
@[simp] theorem setTarget_target (t : Target) : (setTarget t s).target = t := rfl
@[simp] theorem setTarget_calls (t : Target) : (setTarget t s).calls = s.calls := rfl
@[simp] theorem setTarget_results (t : Target) : (setTarget t s).results = s.results := rfl
@[simp] theorem setTarget_polls (t : Target) : (setTarget t s).polls = s.polls := rfl

/-! ### loadRead -/

@[simp] theorem loadRead_lines (a : Addr) (n : Nat) : (loadRead a n s).lines = s.lines := rfl
@[simp] theorem loadRead_addr (a : Addr) (n : Nat) : (loadRead a n s).addr = a := rfl
@[simp] theorem loadRead_len (a : Addr) (n : Nat) : (loadRead a n s).len = n := rfl
@[simp] theorem loadRead_kind (a : Addr) (n : Nat) : (loadRead a n s).kind = .memoryRead := rfl
@[simp] theorem loadRead_tx (a : Addr) (n : Nat) : (loadRead a n s).tx = s.tx := rfl
@[simp] theorem loadRead_rx (a : Addr) (n : Nat) : (loadRead a n s).rx = [] := rfl
@[simp] theorem loadRead_idx (a : Addr) (n : Nat) : (loadRead a n s).idx = s.idx := rfl
@[simp] theorem loadRead_lo (a : Addr) (n : Nat) : (loadRead a n s).lo = s.lo := rfl
@[simp] theorem loadRead_sample (a : Addr) (n : Nat) : (loadRead a n s).sample = s.sample := rfl
@[simp] theorem loadRead_warning (a : Addr) (n : Nat) : (loadRead a n s).warning = false := rfl
@[simp] theorem loadRead_phase (a : Addr) (n : Nat) : (loadRead a n s).phase = s.phase := rfl
@[simp] theorem loadRead_desync (a : Addr) (n : Nat) : (loadRead a n s).desync = s.desync := rfl
@[simp] theorem loadRead_prepared (a : Addr) (n : Nat) : (loadRead a n s).prepared = s.prepared := rfl
@[simp] theorem loadRead_diagnostic (a : Addr) (n : Nat) : (loadRead a n s).diagnostic = s.diagnostic := rfl
@[simp] theorem loadRead_device (a : Addr) (n : Nat) : (loadRead a n s).device = s.device := rfl
@[simp] theorem loadRead_params (a : Addr) (n : Nat) : (loadRead a n s).params = s.params := rfl
@[simp] theorem loadRead_trace (a : Addr) (n : Nat) : (loadRead a n s).trace = s.trace := rfl
@[simp] theorem loadRead_nibbles (a : Addr) (n : Nat) : (loadRead a n s).nibbles = s.nibbles := rfl
@[simp] theorem loadRead_reports (a : Addr) (n : Nat) : (loadRead a n s).reports = s.reports := rfl
@[simp] theorem loadRead_target (a : Addr) (n : Nat) : (loadRead a n s).target = s.target := rfl
@[simp] theorem loadRead_calls (a : Addr) (n : Nat) : (loadRead a n s).calls = s.calls := rfl
@[simp] theorem loadRead_results (a : Addr) (n : Nat) : (loadRead a n s).results = s.results := rfl
@[simp] theorem loadRead_polls (a : Addr) (n : Nat) : (loadRead a n s).polls = s.polls := rfl

/-! ### loadWrite -/

@[simp] theorem loadWrite_lines (a : Addr) (bs : List Byte) : (loadWrite a bs s).lines = s.lines := rfl
@[simp] theorem loadWrite_addr (a : Addr) (bs : List Byte) : (loadWrite a bs s).addr = a := rfl
@[simp] theorem loadWrite_len (a : Addr) (bs : List Byte) : (loadWrite a bs s).len = bs.length := rfl
@[simp] theorem loadWrite_kind (a : Addr) (bs : List Byte) : (loadWrite a bs s).kind = .memoryWrite := rfl
@[simp] theorem loadWrite_tx (a : Addr) (bs : List Byte) : (loadWrite a bs s).tx = bs := rfl
@[simp] theorem loadWrite_rx (a : Addr) (bs : List Byte) : (loadWrite a bs s).rx = s.rx := rfl
@[simp] theorem loadWrite_idx (a : Addr) (bs : List Byte) : (loadWrite a bs s).idx = s.idx := rfl
@[simp] theorem loadWrite_lo (a : Addr) (bs : List Byte) : (loadWrite a bs s).lo = s.lo := rfl
@[simp] theorem loadWrite_sample (a : Addr) (bs : List Byte) : (loadWrite a bs s).sample = s.sample := rfl
@[simp] theorem loadWrite_warning (a : Addr) (bs : List Byte) : (loadWrite a bs s).warning = s.warning := rfl
@[simp] theorem loadWrite_phase (a : Addr) (bs : List Byte) : (loadWrite a bs s).phase = s.phase := rfl
@[simp] theorem loadWrite_desync (a : Addr) (bs : List Byte) : (loadWrite a bs s).desync = s.desync := rfl
@[simp] theorem loadWrite_prepared (a : Addr) (bs : List Byte) : (loadWrite a bs s).prepared = s.prepared := rfl
@[simp] theorem loadWrite_diagnostic (a : Addr) (bs : List Byte) : (loadWrite a bs s).diagnostic = s.diagnostic := rfl
@[simp] theorem loadWrite_device (a : Addr) (bs : List Byte) : (loadWrite a bs s).device = s.device := rfl
@[simp] theorem loadWrite_params (a : Addr) (bs : List Byte) : (loadWrite a bs s).params = s.params := rfl
@[simp] theorem loadWrite_trace (a : Addr) (bs : List Byte) : (loadWrite a bs s).trace = s.trace := rfl
@[simp] theorem loadWrite_nibbles (a : Addr) (bs : List Byte) : (loadWrite a bs s).nibbles = s.nibbles := rfl
@[simp] theorem loadWrite_reports (a : Addr) (bs : List Byte) : (loadWrite a bs s).reports = s.reports := rfl
@[simp] theorem loadWrite_target (a : Addr) (bs : List Byte) : (loadWrite a bs s).target = s.target := rfl
@[simp] theorem loadWrite_calls (a : Addr) (bs : List Byte) : (loadWrite a bs s).calls = s.calls := rfl
@[simp] theorem loadWrite_results (a : Addr) (bs : List Byte) : (loadWrite a bs s).results = s.results := rfl
@[simp] theorem loadWrite_polls (a : Addr) (bs : List Byte) : (loadWrite a bs s).polls = s.polls := rfl

/-! ### markPrepared -/

@[simp] theorem markPrepared_lines : (markPrepared s).lines = s.lines := rfl
@[simp] theorem markPrepared_addr : (markPrepared s).addr = s.addr := rfl
@[simp] theorem markPrepared_len : (markPrepared s).len = s.len := rfl
@[simp] theorem markPrepared_kind : (markPrepared s).kind = s.kind := rfl
@[simp] theorem markPrepared_tx : (markPrepared s).tx = s.tx := rfl
@[simp] theorem markPrepared_rx : (markPrepared s).rx = s.rx := rfl
@[simp] theorem markPrepared_idx : (markPrepared s).idx = s.idx := rfl
@[simp] theorem markPrepared_lo : (markPrepared s).lo = s.lo := rfl
@[simp] theorem markPrepared_sample : (markPrepared s).sample = s.sample := rfl
@[simp] theorem markPrepared_warning : (markPrepared s).warning = s.warning := rfl
@[simp] theorem markPrepared_phase : (markPrepared s).phase = .idle := rfl
@[simp] theorem markPrepared_desync : (markPrepared s).desync = false := rfl
@[simp] theorem markPrepared_prepared : (markPrepared s).prepared = true := rfl
@[simp] theorem markPrepared_diagnostic : (markPrepared s).diagnostic = s.diagnostic := rfl
@[simp] theorem markPrepared_device : (markPrepared s).device = none := rfl
@[simp] theorem markPrepared_params : (markPrepared s).params = s.params := rfl
@[simp] theorem markPrepared_trace : (markPrepared s).trace = s.trace := rfl
@[simp] theorem markPrepared_nibbles : (markPrepared s).nibbles = s.nibbles := rfl
@[simp] theorem markPrepared_reports : (markPrepared s).reports = s.reports := rfl
@[simp] theorem markPrepared_target : (markPrepared s).target = s.target := rfl
@[simp] theorem markPrepared_calls : (markPrepared s).calls = s.calls := rfl
@[simp] theorem markPrepared_results : (markPrepared s).results = s.results := rfl
@[simp] theorem markPrepared_polls : (markPrepared s).polls = s.polls := rfl

/-! ### markDesynced -/

@[simp] theorem markDesynced_lines : (markDesynced s).lines = s.lines := rfl
@[simp] theorem markDesynced_addr : (markDesynced s).addr = s.addr := rfl
@[simp] theorem markDesynced_len : (markDesynced s).len = s.len := rfl
@[simp] theorem markDesynced_kind : (markDesynced s).kind = s.kind := rfl
@[simp] theorem markDesynced_tx : (markDesynced s).tx = s.tx := rfl
@[simp] theorem markDesynced_rx : (markDesynced s).rx = s.rx := rfl
@[simp] theorem markDesynced_idx : (markDesynced s).idx = s.idx := rfl
@[simp] theorem markDesynced_lo : (markDesynced s).lo = s.lo := rfl
@[simp] theorem markDesynced_sample : (markDesynced s).sample = s.sample := rfl
@[simp] theorem markDesynced_warning : (markDesynced s).warning = s.warning := rfl
@[simp] theorem markDesynced_phase : (markDesynced s).phase = .aborted := rfl
@[simp] theorem markDesynced_desync : (markDesynced s).desync = true := rfl
@[simp] theorem markDesynced_prepared : (markDesynced s).prepared = s.prepared := rfl
@[simp] theorem markDesynced_diagnostic : (markDesynced s).diagnostic = s.diagnostic := rfl
@[simp] theorem markDesynced_device : (markDesynced s).device = s.device := rfl
@[simp] theorem markDesynced_params : (markDesynced s).params = s.params := rfl
@[simp] theorem markDesynced_trace : (markDesynced s).trace = s.trace := rfl
@[simp] theorem markDesynced_nibbles : (markDesynced s).nibbles = s.nibbles := rfl
@[simp] theorem markDesynced_reports : (markDesynced s).reports = s.reports := rfl
@[simp] theorem markDesynced_target : (markDesynced s).target = s.target := rfl
@[simp] theorem markDesynced_calls : (markDesynced s).calls = s.calls := rfl
@[simp] theorem markDesynced_results : (markDesynced s).results = s.results := rfl
@[simp] theorem markDesynced_polls : (markDesynced s).polls = s.polls := rfl

/-! ### record -/

@[simp] theorem record_lines (o : OpOutcome) : (record o s).lines = s.lines := rfl
@[simp] theorem record_addr (o : OpOutcome) : (record o s).addr = s.addr := rfl
@[simp] theorem record_len (o : OpOutcome) : (record o s).len = s.len := rfl
@[simp] theorem record_kind (o : OpOutcome) : (record o s).kind = s.kind := rfl
@[simp] theorem record_tx (o : OpOutcome) : (record o s).tx = s.tx := rfl
@[simp] theorem record_rx (o : OpOutcome) : (record o s).rx = s.rx := rfl
@[simp] theorem record_idx (o : OpOutcome) : (record o s).idx = s.idx := rfl
@[simp] theorem record_lo (o : OpOutcome) : (record o s).lo = s.lo := rfl
@[simp] theorem record_sample (o : OpOutcome) : (record o s).sample = s.sample := rfl
@[simp] theorem record_warning (o : OpOutcome) : (record o s).warning = s.warning := rfl
@[simp] theorem record_phase (o : OpOutcome) : (record o s).phase = s.phase := rfl
@[simp] theorem record_desync (o : OpOutcome) : (record o s).desync = s.desync := rfl
@[simp] theorem record_prepared (o : OpOutcome) : (record o s).prepared = s.prepared := rfl
@[simp] theorem record_diagnostic (o : OpOutcome) : (record o s).diagnostic = s.diagnostic := rfl
@[simp] theorem record_device (o : OpOutcome) : (record o s).device = s.device := rfl
@[simp] theorem record_params (o : OpOutcome) : (record o s).params = s.params := rfl
@[simp] theorem record_trace (o : OpOutcome) : (record o s).trace = s.trace := rfl
@[simp] theorem record_nibbles (o : OpOutcome) : (record o s).nibbles = s.nibbles := rfl
@[simp] theorem record_reports (o : OpOutcome) : (record o s).reports = s.reports := rfl
@[simp] theorem record_target (o : OpOutcome) : (record o s).target = s.target := rfl
@[simp] theorem record_calls (o : OpOutcome) : (record o s).calls = s.calls := rfl
@[simp] theorem record_results (o : OpOutcome) : (record o s).results = s.results ++ [o] := rfl
@[simp] theorem record_polls (o : OpOutcome) : (record o s).polls = none := rfl

/-! ### pushCall -/

@[simp] theorem pushCall_lines (line : List Nibble) : (pushCall line s).lines = s.lines := rfl
@[simp] theorem pushCall_addr (line : List Nibble) : (pushCall line s).addr = s.addr := rfl
@[simp] theorem pushCall_len (line : List Nibble) : (pushCall line s).len = s.len := rfl
@[simp] theorem pushCall_kind (line : List Nibble) : (pushCall line s).kind = s.kind := rfl
@[simp] theorem pushCall_tx (line : List Nibble) : (pushCall line s).tx = s.tx := rfl
@[simp] theorem pushCall_rx (line : List Nibble) : (pushCall line s).rx = s.rx := rfl
@[simp] theorem pushCall_idx (line : List Nibble) : (pushCall line s).idx = s.idx := rfl
@[simp] theorem pushCall_lo (line : List Nibble) : (pushCall line s).lo = s.lo := rfl
@[simp] theorem pushCall_sample (line : List Nibble) : (pushCall line s).sample = s.sample := rfl
@[simp] theorem pushCall_warning (line : List Nibble) : (pushCall line s).warning = s.warning := rfl
@[simp] theorem pushCall_phase (line : List Nibble) : (pushCall line s).phase = s.phase := rfl
@[simp] theorem pushCall_desync (line : List Nibble) : (pushCall line s).desync = s.desync := rfl
@[simp] theorem pushCall_prepared (line : List Nibble) : (pushCall line s).prepared = s.prepared := rfl
@[simp] theorem pushCall_diagnostic (line : List Nibble) : (pushCall line s).diagnostic = s.diagnostic := rfl
@[simp] theorem pushCall_device (line : List Nibble) : (pushCall line s).device = s.device := rfl
@[simp] theorem pushCall_params (line : List Nibble) : (pushCall line s).params = s.params := rfl
@[simp] theorem pushCall_trace (line : List Nibble) : (pushCall line s).trace = s.trace := rfl
@[simp] theorem pushCall_nibbles (line : List Nibble) : (pushCall line s).nibbles = s.nibbles := rfl
@[simp] theorem pushCall_reports (line : List Nibble) : (pushCall line s).reports = s.reports := rfl
@[simp] theorem pushCall_target (line : List Nibble) : (pushCall line s).target = s.target := rfl
@[simp] theorem pushCall_calls (line : List Nibble) : (pushCall line s).calls = line :: s.calls := rfl
@[simp] theorem pushCall_results (line : List Nibble) : (pushCall line s).results = s.results := rfl
@[simp] theorem pushCall_polls (line : List Nibble) : (pushCall line s).polls = s.polls := rfl

end

end Sys2Proof.Machine
end

