-- ==== Sys2Proof/Laws/Transport.lean ====
section
/-! SUPPORT. The Bus Signal Layer and the Nibble Transport, field by field: what each operation writes
(the closed form of its lines, trace and log) and that it writes nothing else. -/

namespace Sys2Proof.Machine

/-- The lines after a host slot (R115): LAD at the nibble's levels, LFRAME as `f` says, LCLK Low. -/
def hostSlotLines (v : Nibble) (f : Bool) (ls : Lines) : Lines :=
  { ls with
    lad0 := { ls.lad0 with lvl := .set (nibbleLevel v 0) }
    lad1 := { ls.lad1 with lvl := .set (nibbleLevel v 1) }
    lad2 := { ls.lad2 with lvl := .set (nibbleLevel v 2) }
    lad3 := { ls.lad3 with lvl := .set (nibbleLevel v 3) }
    lframe := { ls.lframe with lvl := .set (frameLevel f) }
    lclk := { ls.lclk with lvl := .set .low } }

/-- The lines after a target slot (R118): LCLK Low, nothing else changed. -/
def targetSlotLines (ls : Lines) : Lines := { ls with lclk := { ls.lclk with lvl := .set .low } }

/-- A later host slot overwrites what an earlier one drove. -/
@[simp] theorem hostSlotLines_hostSlotLines (v w : Nibble) (f g : Bool) (ls : Lines) :
    hostSlotLines v f (hostSlotLines w g ls) = hostSlotLines v f ls := rfl

@[simp] theorem targetSlotLines_targetSlotLines (ls : Lines) :
    targetSlotLines (targetSlotLines ls) = targetSlotLines ls := rfl

section

variable (s : State)


/-! ### setLinesOutput -/

@[simp] theorem setLinesOutput_lines : (setLinesOutput s).lines =
    { s.lines with
      lad0 := { s.lines.lad0 with dir := .set .output }
      lad1 := { s.lines.lad1 with dir := .set .output }
      lad2 := { s.lines.lad2 with dir := .set .output }
      lad3 := { s.lines.lad3 with dir := .set .output } } := rfl
@[simp] theorem setLinesOutput_trace : (setLinesOutput s).trace =
    s.trace ++ outputEvents := by simp [setLinesOutput, outputEvents]
@[simp] theorem setLinesOutput_addr : (setLinesOutput s).addr = s.addr := rfl
@[simp] theorem setLinesOutput_len : (setLinesOutput s).len = s.len := rfl
@[simp] theorem setLinesOutput_kind : (setLinesOutput s).kind = s.kind := rfl
@[simp] theorem setLinesOutput_tx : (setLinesOutput s).tx = s.tx := rfl
@[simp] theorem setLinesOutput_rx : (setLinesOutput s).rx = s.rx := rfl
@[simp] theorem setLinesOutput_idx : (setLinesOutput s).idx = s.idx := rfl
@[simp] theorem setLinesOutput_lo : (setLinesOutput s).lo = s.lo := rfl
@[simp] theorem setLinesOutput_sample : (setLinesOutput s).sample = s.sample := rfl
@[simp] theorem setLinesOutput_warning : (setLinesOutput s).warning = s.warning := rfl
@[simp] theorem setLinesOutput_phase : (setLinesOutput s).phase = s.phase := rfl
@[simp] theorem setLinesOutput_desync : (setLinesOutput s).desync = s.desync := rfl
@[simp] theorem setLinesOutput_prepared : (setLinesOutput s).prepared = s.prepared := rfl
@[simp] theorem setLinesOutput_diagnostic : (setLinesOutput s).diagnostic = s.diagnostic := rfl
@[simp] theorem setLinesOutput_device : (setLinesOutput s).device = s.device := rfl
@[simp] theorem setLinesOutput_params : (setLinesOutput s).params = s.params := rfl
@[simp] theorem setLinesOutput_nibbles : (setLinesOutput s).nibbles = s.nibbles := rfl
@[simp] theorem setLinesOutput_reports : (setLinesOutput s).reports = s.reports := rfl
@[simp] theorem setLinesOutput_target : (setLinesOutput s).target = s.target := rfl
@[simp] theorem setLinesOutput_calls : (setLinesOutput s).calls = s.calls := rfl
@[simp] theorem setLinesOutput_results : (setLinesOutput s).results = s.results := rfl
@[simp] theorem setLinesOutput_polls : (setLinesOutput s).polls = s.polls := rfl

/-! ### setLinesInput -/

@[simp] theorem setLinesInput_lines (z : Bool) : (setLinesInput z s).lines =
    { s.lines with
      lad0 := ⟨.set .input, if z then .set .low else s.lines.lad0.lvl⟩
      lad1 := ⟨.set .input, if z then .set .low else s.lines.lad1.lvl⟩
      lad2 := ⟨.set .input, if z then .set .low else s.lines.lad2.lvl⟩
      lad3 := ⟨.set .input, if z then .set .low else s.lines.lad3.lvl⟩ } := by cases z <;> rfl
@[simp] theorem setLinesInput_trace (z : Bool) : (setLinesInput z s).trace =
    s.trace ++ inputEvents z := by
  cases z <;> simp [setLinesInput, releaseLines, zeroLines, inputEvents]
@[simp] theorem setLinesInput_addr (z : Bool) : (setLinesInput z s).addr = s.addr := by cases z <;> rfl
@[simp] theorem setLinesInput_len (z : Bool) : (setLinesInput z s).len = s.len := by cases z <;> rfl
@[simp] theorem setLinesInput_kind (z : Bool) : (setLinesInput z s).kind = s.kind := by cases z <;> rfl
@[simp] theorem setLinesInput_tx (z : Bool) : (setLinesInput z s).tx = s.tx := by cases z <;> rfl
@[simp] theorem setLinesInput_rx (z : Bool) : (setLinesInput z s).rx = s.rx := by cases z <;> rfl
@[simp] theorem setLinesInput_idx (z : Bool) : (setLinesInput z s).idx = s.idx := by cases z <;> rfl
@[simp] theorem setLinesInput_lo (z : Bool) : (setLinesInput z s).lo = s.lo := by cases z <;> rfl
@[simp] theorem setLinesInput_sample (z : Bool) : (setLinesInput z s).sample = s.sample := by cases z <;> rfl
@[simp] theorem setLinesInput_warning (z : Bool) : (setLinesInput z s).warning = s.warning := by cases z <;> rfl
@[simp] theorem setLinesInput_phase (z : Bool) : (setLinesInput z s).phase = s.phase := by cases z <;> rfl
@[simp] theorem setLinesInput_desync (z : Bool) : (setLinesInput z s).desync = s.desync := by cases z <;> rfl
@[simp] theorem setLinesInput_prepared (z : Bool) : (setLinesInput z s).prepared = s.prepared := by cases z <;> rfl
@[simp] theorem setLinesInput_diagnostic (z : Bool) : (setLinesInput z s).diagnostic = s.diagnostic := by cases z <;> rfl
@[simp] theorem setLinesInput_device (z : Bool) : (setLinesInput z s).device = s.device := by cases z <;> rfl
@[simp] theorem setLinesInput_params (z : Bool) : (setLinesInput z s).params = s.params := by cases z <;> rfl
@[simp] theorem setLinesInput_nibbles (z : Bool) : (setLinesInput z s).nibbles = s.nibbles := by cases z <;> rfl
@[simp] theorem setLinesInput_reports (z : Bool) : (setLinesInput z s).reports = s.reports := by cases z <;> rfl
@[simp] theorem setLinesInput_target (z : Bool) : (setLinesInput z s).target = s.target := by cases z <;> rfl
@[simp] theorem setLinesInput_calls (z : Bool) : (setLinesInput z s).calls = s.calls := by cases z <;> rfl
@[simp] theorem setLinesInput_results (z : Bool) : (setLinesInput z s).results = s.results := by cases z <;> rfl
@[simp] theorem setLinesInput_polls (z : Bool) : (setLinesInput z s).polls = s.polls := by cases z <;> rfl

/-! ### assertFrame -/

@[simp] theorem assertFrame_lines (f : Bool) : (assertFrame f s).lines =
    s.lines.drive .lframe (frameLevel f) := rfl
@[simp] theorem assertFrame_trace (f : Bool) : (assertFrame f s).trace =
    s.trace ++ [.lvl .lframe (frameLevel f)] := rfl
@[simp] theorem assertFrame_addr (f : Bool) : (assertFrame f s).addr = s.addr := rfl
@[simp] theorem assertFrame_len (f : Bool) : (assertFrame f s).len = s.len := rfl
@[simp] theorem assertFrame_kind (f : Bool) : (assertFrame f s).kind = s.kind := rfl
@[simp] theorem assertFrame_tx (f : Bool) : (assertFrame f s).tx = s.tx := rfl
@[simp] theorem assertFrame_rx (f : Bool) : (assertFrame f s).rx = s.rx := rfl
@[simp] theorem assertFrame_idx (f : Bool) : (assertFrame f s).idx = s.idx := rfl
@[simp] theorem assertFrame_lo (f : Bool) : (assertFrame f s).lo = s.lo := rfl
@[simp] theorem assertFrame_sample (f : Bool) : (assertFrame f s).sample = s.sample := rfl
@[simp] theorem assertFrame_warning (f : Bool) : (assertFrame f s).warning = s.warning := rfl
@[simp] theorem assertFrame_phase (f : Bool) : (assertFrame f s).phase = s.phase := rfl
@[simp] theorem assertFrame_desync (f : Bool) : (assertFrame f s).desync = s.desync := rfl
@[simp] theorem assertFrame_prepared (f : Bool) : (assertFrame f s).prepared = s.prepared := rfl
@[simp] theorem assertFrame_diagnostic (f : Bool) : (assertFrame f s).diagnostic = s.diagnostic := rfl
@[simp] theorem assertFrame_device (f : Bool) : (assertFrame f s).device = s.device := rfl
@[simp] theorem assertFrame_params (f : Bool) : (assertFrame f s).params = s.params := rfl
@[simp] theorem assertFrame_nibbles (f : Bool) : (assertFrame f s).nibbles = s.nibbles := rfl
@[simp] theorem assertFrame_reports (f : Bool) : (assertFrame f s).reports = s.reports := rfl
@[simp] theorem assertFrame_target (f : Bool) : (assertFrame f s).target = s.target := rfl
@[simp] theorem assertFrame_calls (f : Bool) : (assertFrame f s).calls = s.calls := rfl
@[simp] theorem assertFrame_results (f : Bool) : (assertFrame f s).results = s.results := rfl
@[simp] theorem assertFrame_polls (f : Bool) : (assertFrame f s).polls = s.polls := rfl

/-! ### setClock -/

@[simp] theorem setClock_lines (l : Level) : (setClock l s).lines =
    s.lines.drive .lclk l := rfl
@[simp] theorem setClock_trace (l : Level) : (setClock l s).trace =
    s.trace ++ [.lvl .lclk l] := rfl
@[simp] theorem setClock_addr (l : Level) : (setClock l s).addr = s.addr := rfl
@[simp] theorem setClock_len (l : Level) : (setClock l s).len = s.len := rfl
@[simp] theorem setClock_kind (l : Level) : (setClock l s).kind = s.kind := rfl
@[simp] theorem setClock_tx (l : Level) : (setClock l s).tx = s.tx := rfl
@[simp] theorem setClock_rx (l : Level) : (setClock l s).rx = s.rx := rfl
@[simp] theorem setClock_idx (l : Level) : (setClock l s).idx = s.idx := rfl
@[simp] theorem setClock_lo (l : Level) : (setClock l s).lo = s.lo := rfl
@[simp] theorem setClock_sample (l : Level) : (setClock l s).sample = s.sample := rfl
@[simp] theorem setClock_warning (l : Level) : (setClock l s).warning = s.warning := rfl
@[simp] theorem setClock_phase (l : Level) : (setClock l s).phase = s.phase := rfl
@[simp] theorem setClock_desync (l : Level) : (setClock l s).desync = s.desync := rfl
@[simp] theorem setClock_prepared (l : Level) : (setClock l s).prepared = s.prepared := rfl
@[simp] theorem setClock_diagnostic (l : Level) : (setClock l s).diagnostic = s.diagnostic := rfl
@[simp] theorem setClock_device (l : Level) : (setClock l s).device = s.device := rfl
@[simp] theorem setClock_params (l : Level) : (setClock l s).params = s.params := rfl
@[simp] theorem setClock_nibbles (l : Level) : (setClock l s).nibbles = s.nibbles := rfl
@[simp] theorem setClock_reports (l : Level) : (setClock l s).reports = s.reports := rfl
@[simp] theorem setClock_target (l : Level) : (setClock l s).target = s.target := rfl
@[simp] theorem setClock_calls (l : Level) : (setClock l s).calls = s.calls := rfl
@[simp] theorem setClock_results (l : Level) : (setClock l s).results = s.results := rfl
@[simp] theorem setClock_polls (l : Level) : (setClock l s).polls = s.polls := rfl

/-! ### writeNibble -/

@[simp] theorem writeNibble_lines (v : Nibble) (f : Bool) : (writeNibble v f s).lines =
    hostSlotLines v f s.lines := rfl
@[simp] theorem writeNibble_trace (v : Nibble) (f : Bool) : (writeNibble v f s).trace =
    s.trace ++ slotEvents (.host v f) := by
  simp [writeNibble, driveLAD, slotEvents, hostSlotEvents]
@[simp] theorem writeNibble_nibbles (v : Nibble) (f : Bool) : (writeNibble v f s).nibbles =
    s.nibbles ++ [.host v f] := rfl
@[simp] theorem writeNibble_addr (v : Nibble) (f : Bool) : (writeNibble v f s).addr = s.addr := rfl
@[simp] theorem writeNibble_len (v : Nibble) (f : Bool) : (writeNibble v f s).len = s.len := rfl
@[simp] theorem writeNibble_kind (v : Nibble) (f : Bool) : (writeNibble v f s).kind = s.kind := rfl
@[simp] theorem writeNibble_tx (v : Nibble) (f : Bool) : (writeNibble v f s).tx = s.tx := rfl
@[simp] theorem writeNibble_rx (v : Nibble) (f : Bool) : (writeNibble v f s).rx = s.rx := rfl
@[simp] theorem writeNibble_idx (v : Nibble) (f : Bool) : (writeNibble v f s).idx = s.idx := rfl
@[simp] theorem writeNibble_lo (v : Nibble) (f : Bool) : (writeNibble v f s).lo = s.lo := rfl
@[simp] theorem writeNibble_sample (v : Nibble) (f : Bool) : (writeNibble v f s).sample = s.sample := rfl
@[simp] theorem writeNibble_warning (v : Nibble) (f : Bool) : (writeNibble v f s).warning = s.warning := rfl
@[simp] theorem writeNibble_phase (v : Nibble) (f : Bool) : (writeNibble v f s).phase = s.phase := rfl
@[simp] theorem writeNibble_desync (v : Nibble) (f : Bool) : (writeNibble v f s).desync = s.desync := rfl
@[simp] theorem writeNibble_prepared (v : Nibble) (f : Bool) : (writeNibble v f s).prepared = s.prepared := rfl
@[simp] theorem writeNibble_diagnostic (v : Nibble) (f : Bool) : (writeNibble v f s).diagnostic = s.diagnostic := rfl
@[simp] theorem writeNibble_device (v : Nibble) (f : Bool) : (writeNibble v f s).device = s.device := rfl
@[simp] theorem writeNibble_params (v : Nibble) (f : Bool) : (writeNibble v f s).params = s.params := rfl
@[simp] theorem writeNibble_reports (v : Nibble) (f : Bool) : (writeNibble v f s).reports = s.reports := rfl
@[simp] theorem writeNibble_target (v : Nibble) (f : Bool) : (writeNibble v f s).target = s.target := rfl
@[simp] theorem writeNibble_calls (v : Nibble) (f : Bool) : (writeNibble v f s).calls = s.calls := rfl
@[simp] theorem writeNibble_results (v : Nibble) (f : Bool) : (writeNibble v f s).results = s.results := rfl
@[simp] theorem writeNibble_polls (v : Nibble) (f : Bool) : (writeNibble v f s).polls = s.polls := rfl

/-! ### readNibble -/

@[simp] theorem readNibble_lines : (readNibble s).lines =
    targetSlotLines s.lines := rfl
@[simp] theorem readNibble_sample : (readNibble s).sample =
    (s.target.draw s.params s.nibbles).1 := nibbleOfLevels_nibbleLevel _
@[simp] theorem readNibble_target : (readNibble s).target =
    (s.target.draw s.params s.nibbles).2 := rfl
@[simp] theorem readNibble_trace : (readNibble s).trace =
    s.trace ++ slotEvents (.target (s.target.draw s.params s.nibbles).1) := by
  simp [readNibble, sampleLAD, sampleLines, slotEvents, targetSlotEvents]
@[simp] theorem readNibble_nibbles : (readNibble s).nibbles =
    s.nibbles ++ [.target (s.target.draw s.params s.nibbles).1] := by
  simp [readNibble, sampleLAD, sampleLines]
@[simp] theorem readNibble_addr : (readNibble s).addr = s.addr := rfl
@[simp] theorem readNibble_len : (readNibble s).len = s.len := rfl
@[simp] theorem readNibble_kind : (readNibble s).kind = s.kind := rfl
@[simp] theorem readNibble_tx : (readNibble s).tx = s.tx := rfl
@[simp] theorem readNibble_rx : (readNibble s).rx = s.rx := rfl
@[simp] theorem readNibble_idx : (readNibble s).idx = s.idx := rfl
@[simp] theorem readNibble_lo : (readNibble s).lo = s.lo := rfl
@[simp] theorem readNibble_warning : (readNibble s).warning = s.warning := rfl
@[simp] theorem readNibble_phase : (readNibble s).phase = s.phase := rfl
@[simp] theorem readNibble_desync : (readNibble s).desync = s.desync := rfl
@[simp] theorem readNibble_prepared : (readNibble s).prepared = s.prepared := rfl
@[simp] theorem readNibble_diagnostic : (readNibble s).diagnostic = s.diagnostic := rfl
@[simp] theorem readNibble_device : (readNibble s).device = s.device := rfl
@[simp] theorem readNibble_params : (readNibble s).params = s.params := rfl
@[simp] theorem readNibble_reports : (readNibble s).reports = s.reports := rfl
@[simp] theorem readNibble_calls : (readNibble s).calls = s.calls := rfl
@[simp] theorem readNibble_results : (readNibble s).results = s.results := rfl
@[simp] theorem readNibble_polls : (readNibble s).polls = s.polls := rfl

/-! ### discardNibble -/

@[simp] theorem discardNibble_lines : (discardNibble s).lines =
    targetSlotLines s.lines := rfl
@[simp] theorem discardNibble_sample : (discardNibble s).sample =
    (s.target.draw s.params s.nibbles).1 := readNibble_sample s
@[simp] theorem discardNibble_target : (discardNibble s).target =
    (s.target.draw s.params s.nibbles).2 := rfl
@[simp] theorem discardNibble_trace : (discardNibble s).trace =
    s.trace ++ slotEvents (.target (s.target.draw s.params s.nibbles).1) := readNibble_trace s
@[simp] theorem discardNibble_nibbles : (discardNibble s).nibbles =
    s.nibbles ++ [.target (s.target.draw s.params s.nibbles).1] := readNibble_nibbles s
@[simp] theorem discardNibble_addr : (discardNibble s).addr = s.addr := rfl
@[simp] theorem discardNibble_len : (discardNibble s).len = s.len := rfl
@[simp] theorem discardNibble_kind : (discardNibble s).kind = s.kind := rfl
@[simp] theorem discardNibble_tx : (discardNibble s).tx = s.tx := rfl
@[simp] theorem discardNibble_rx : (discardNibble s).rx = s.rx := rfl
@[simp] theorem discardNibble_idx : (discardNibble s).idx = s.idx := rfl
@[simp] theorem discardNibble_lo : (discardNibble s).lo = s.lo := rfl
@[simp] theorem discardNibble_warning : (discardNibble s).warning = s.warning := rfl
@[simp] theorem discardNibble_phase : (discardNibble s).phase = s.phase := rfl
@[simp] theorem discardNibble_desync : (discardNibble s).desync = s.desync := rfl
@[simp] theorem discardNibble_prepared : (discardNibble s).prepared = s.prepared := rfl
@[simp] theorem discardNibble_diagnostic : (discardNibble s).diagnostic = s.diagnostic := rfl
@[simp] theorem discardNibble_device : (discardNibble s).device = s.device := rfl
@[simp] theorem discardNibble_params : (discardNibble s).params = s.params := rfl
@[simp] theorem discardNibble_reports : (discardNibble s).reports = s.reports := rfl
@[simp] theorem discardNibble_calls : (discardNibble s).calls = s.calls := rfl
@[simp] theorem discardNibble_results : (discardNibble s).results = s.results := rfl
@[simp] theorem discardNibble_polls : (discardNibble s).polls = s.polls := rfl

/-! ### busInit -/

/-- What `busInit` leaves (R43, R109, R232): every line set, RESET deasserted, LAD output at the levels
it had, and the four flags; the logs but the trace, the registers and the configuration stay. -/
theorem busInit_eq : busInit s =
    { s with
      lines :=
        { reset := ⟨.set .output, .set (flipLevel Config.resetActiveLevel)⟩
          lad0 := { s.lines.lad0 with dir := .set .output }
          lad1 := { s.lines.lad1 with dir := .set .output }
          lad2 := { s.lines.lad2 with dir := .set .output }
          lad3 := { s.lines.lad3 with dir := .set .output }
          lframe := ⟨.set .output, .set (frameLevel false)⟩
          lclk := ⟨.set .output, .set .low⟩
          we := ⟨.set .output, .set s.params.weLevel⟩ }
      trace := s.trace ++ busInitEvents s.params.weLevel
      target := s.target.resetPulse
      desync := false, prepared := true, device := none, phase := .idle } := by
  ext <;> simp [busInit, prepareLines, busInitEvents, outputEvents, Lines.turn, Lines.drive, Lines.put,
    Lines.get]

end

end Sys2Proof.Machine
end

