-- ==== Sys2Proof/Laws/Cycle.lean ====
section
/-! SUPPORT. The two bus cycles: what each part does in closed form, for every target, and the lemma
that says once everything a cycle can do. -/

namespace Sys2Proof.Machine

/-! ### The header -/

@[simp] theorem slotEvents_target (v : Nibble) : slotEvents (.target v) = targetSlotEvents v := rfl

/-- The ADDR field (R75, R129). -/
theorem sendAddress_eq (a : Addr) (s : State) :
    sendAddress a s =
      { s with
        lines := hostSlotLines (addrNibble a 6) false s.lines
        trace := s.trace ++ ((putFrameAddr a).map (NibbleEvent.host · false)).flatMap slotEvents
        nibbles := s.nibbles ++ (putFrameAddr a).map (NibbleEvent.host · false) } := by
  apply State.ext <;> simp [sendAddress, putFrameAddr]

/-- The ten header slots (R129). -/
theorem sendHeader_eq (start : Nibble) (a : Addr) (code : Nibble) (s : State) :
    sendHeader start a code s =
      { s with
        lines := hostSlotLines code false s.lines
        phase := headerPhase start .rc5 .wc5
        trace := s.trace ++ (hostEntries (putHeader start a code)).flatMap slotEvents
        nibbles := s.nibbles ++ hostEntries (putHeader start a code) } := by
  apply State.ext <;>
    simp [sendHeader, sendAddress_eq, putHeader, hostEntries]

/-- The read cycle up to the discarded pulse of RC8 (R129, R139). -/
theorem readHead_eq (code : Nibble) (s : State) :
    readHead code s =
      let log := s.nibbles ++ hostEntries (readFrameHost s.addr code)
      let x := (s.target.draw s.params log).1
      { s with
        lines := linesAfterCycle .low s.lines
        sample := x
        phase := .rc8
        trace := s.trace ++ cycleEvents true (hostEntries (readFrameHost s.addr code)) [x]
        nibbles := log ++ [.target x]
        target := (s.target.draw s.params log).2 } := by
  apply State.ext <;>
    simp [readHead, rc8, rc7, rc6, rc1, sendHeader_eq, readFrameHost, putHeader, hostEntries, cycleEvents]
  rfl

/-! ### The data phase of a read -/

/-- One byte is two slots, low nibble first (R132). -/
theorem readByte_eq (s : State) (hlow : targetSlotLines s.lines = s.lines) :
    readByte s =
      let d := s.target.draws s.params 2 s.nibbles
      let b := byteOf (d.1.getD 1 0x0) (d.1.getD 0 0x0)
      { s with
        rx := s.rx ++ [b], lo := loNibble b, sample := hiNibble b
        trace := s.trace ++ (putBytes [b]).flatMap targetSlotEvents
        nibbles := s.nibbles ++ (putBytes [b]).map .target
        target := d.2 } := by
  apply State.ext <;> simp [readByte, draws_succ, putBytes, hlow]

/-- The data phase (R130, R132): `n` bytes, taken from the target's next `2 n` answers. -/
theorem readData_eq (n i : Nat) (s : State) (hlow : targetSlotLines s.lines = s.lines) :
    ∃ bytes : List Byte, bytes.length = n ∧
      (s.target.draws s.params (2 * n) s.nibbles).1 = putBytes bytes ∧
      readData n i s =
        { s with
          rx := s.rx ++ bytes
          idx := if n = 0 then s.idx else i + n - 1
          lo := if n = 0 then s.lo else loNibble (bytes.getLastD 0x00)
          sample := if n = 0 then s.sample else hiNibble (bytes.getLastD 0x00)
          trace := s.trace ++ (putBytes bytes).flatMap targetSlotEvents
          nibbles := s.nibbles ++ (putBytes bytes).map .target
          target := (s.target.draws s.params (2 * n) s.nibbles).2 } := by
  induction n generalizing i s with
  | zero => exact ⟨[], by simp, by simp [putBytes], by simp [readData, putBytes]⟩
  | succ n ih =>
    have hb := readByte_eq (setIdx i s) (by simpa using hlow)
    obtain ⟨bytes, hlen, hput, heq⟩ := ih (i + 1) (readByte (setIdx i s)) (by rw [hb]; simpa using hlow)
    have hd := draws_add s.params 2 (2 * n) s.nibbles s.target
    obtain ⟨lo, hi, hlh⟩ := draws_two s.params s.nibbles s.target
    have hstep : readByte (setIdx i s) =
        { s with
          idx := i, rx := s.rx ++ [byteOf hi lo], lo := lo, sample := hi
          trace := s.trace ++ (putBytes [byteOf hi lo]).flatMap targetSlotEvents
          nibbles := s.nibbles ++ [.target lo, .target hi]
          target := (s.target.draws s.params 2 s.nibbles).2 } := by
      rw [hb]; apply State.ext <;> simp [hlh, putBytes]
    have hnext : 2 * (n + 1) = 2 + 2 * n := by ring
    rw [hstep] at hput heq
    refine ⟨byteOf hi lo :: bytes, by simp [hlen], ?_, ?_⟩
    · rw [hnext, hd]
      simp only [hlh, List.map_cons, List.map_nil] at hput ⊢
      simp [hput, putBytes]
    · rw [readData, hstep, heq, hnext, hd]
      simp only [hlh, List.map_cons, List.map_nil]
      cases bytes with
      | nil =>
        obtain rfl : n = 0 := by simpa using hlen.symm
        apply State.ext <;> simp [putBytes]
      | cons b bs =>
        have hn : n ≠ 0 := by rintro rfl; simp at hlen
        apply State.ext <;> simp [putBytes, hn, List.getLast?_cons_cons]

/-! ### The read cycle -/

/-- A read cycle's lines have LCLK Low from its header on (R123). -/
theorem targetSlotLines_linesAfterCycle (l : Level) (ls : Lines) :
    targetSlotLines (linesAfterCycle l ls) = linesAfterCycle l ls := rfl

/-- A legal length is not zero and at most 128 (R76). -/
theorem sizeCode_range {n : Nat} {k : BusCycleKind} {c : Nibble} (h : sizeCode n k = some c) :
    1 ≤ n ∧ n ≤ 128 := by
  simp only [sizeCode] at h
  split_ifs at h <;> omega

/-- RC11 (R133, R204). -/
theorem rc11_eq (s : State) (hlow : targetSlotLines s.lines = s.lines) (hw : s.warning = false) :
    rc11 s =
      let t := (s.target.draw s.params s.nibbles).1
      { s with
        sample := t, phase := .rc11
        warning := !(tarExpected t)
        trace := s.trace ++ targetSlotEvents t
        nibbles := s.nibbles ++ [.target t]
        reports := s.reports ++ (if tarExpected t then [] else [.turnaroundWarning s.addr t])
        target := (s.target.draw s.params s.nibbles).2 } := by
  simp only [rc11]
  split <;> rename_i htar <;> simp at htar <;> apply State.ext <;> simp [hlow, hw, htar]

/-- RC12 and the end (R139). -/
theorem rc12_idle_eq (s : State) (hlow : targetSlotLines s.lines = s.lines) :
    enter .idle (rc12 s) =
      let y := (s.target.draw s.params s.nibbles).1
      { s with
        sample := y, phase := .idle
        trace := s.trace ++ targetSlotEvents y
        nibbles := s.nibbles ++ [.target y]
        target := (s.target.draw s.params s.nibbles).2 } := by
  apply State.ext <;> simp [rc12, hlow]

/-- RC10 to the end (R130, R133), for a state whose LCLK is Low and whose received bytes are empty. -/
theorem readTail_eq (s : State) (hlow : targetSlotLines s.lines = s.lines) (hrx : s.rx = [])
    (hw : s.warning = false) (hlen : s.len ≠ 0) :
    ∃ (bytes : List Byte) (t y : Nibble), bytes.length = s.len ∧
      (s.target.draws s.params (2 * s.len + 2) s.nibbles).1 = putBytes bytes ++ [t, y] ∧
      readTail s =
        { s with
          rx := bytes
          idx := bytes.length - 1, lo := loNibble (bytes.getLastD 0x00), sample := y
          warning := !(tarExpected t), phase := .idle
          trace := s.trace ++ (putBytes bytes ++ [t, y]).flatMap targetSlotEvents
          nibbles := s.nibbles ++ (putBytes bytes ++ [t, y]).map .target
          reports := s.reports ++ (if tarExpected t then [] else [.turnaroundWarning s.addr t])
          target := (s.target.draws s.params (2 * s.len + 2) s.nibbles).2 } := by
  obtain ⟨bytes, hbytes, hput, hdata⟩ := readData_eq s.len 0 (enter .rc10 s) (by simpa using hlow)
  have hd := draws_add s.params (2 * s.len) 2 s.nibbles s.target
  simp only [enter_target, enter_params, enter_nibbles] at hput hdata
  rw [hput] at hd
  obtain ⟨t, y, hty⟩ := draws_two s.params (s.nibbles ++ (putBytes bytes).map .target)
    (s.target.draws s.params (2 * s.len) s.nibbles).2
  refine ⟨bytes, t, y, hbytes, by rw [hd, hty], ?_⟩
  rw [hd]
  simp only [draws_succ, draws_zero, List.cons.injEq, and_true] at hty ⊢
  obtain ⟨ht, hy⟩ := hty
  simp only [ht, List.append_assoc] at hy ⊢
  rw [readTail, rc10, hdata, rc11_eq _ (by simpa using hlow) (by simpa using hw),
    rc12_idle_eq _ (by simpa using hlow)]
  apply State.ext <;> simp [hlen, hrx, ht, hy, hbytes]

/-! ### What a read cycle can do -/

/-- The code of a legal length. -/
theorem codeOf_eq {n : Nat} {k : BusCycleKind} {c : Nibble} (h : sizeCode n k = some c) :
    codeOf n k = c := by simp [codeOf, h]

/-- The entry checks of a ready engine with a legal length (R128). -/
theorem entryChecks_ready {s : State} {n : Nat} {k : BusCycleKind} {c : Nibble}
    (hp : s.prepared = true) (hd : s.desync = false) (hc : sizeCode n k = some c) :
    entryChecks n k s = .ok c s := by
  simp [entryChecks, readyChecks, raiseSizeCode, Ran.bind, hp, hd, hc]

/-- RC9 (R131): go on, report and go on, or end the cycle. -/
theorem rc9_eq (s : State) (r : Nibble) (tgt : Target) (hlow : targetSlotLines s.lines = s.lines)
    (h : s.target.draw s.params s.nibbles = (r, tgt)) :
    rc9 s =
      if rsyncAccepted r then
        .ok () { s with
          sample := r, phase := .rc9, trace := s.trace ++ targetSlotEvents r
          nibbles := s.nibbles ++ [.target r], target := tgt }
      else if s.diagnostic then
        .ok () { s with
          sample := r, phase := .rc9, trace := s.trace ++ targetSlotEvents r
          nibbles := s.nibbles ++ [.target r], target := tgt
          reports := s.reports ++ [.diagSync s.addr r] }
      else
        .raised (.syncError .rsync .memoryRead s.addr r) { s with
          sample := r, phase := .aborted, desync := true, trace := s.trace ++ targetSlotEvents r
          nibbles := s.nibbles ++ [.target r], target := tgt } := by
  have hread : readNibble (enter .rc9 s) =
      { s with
        sample := r, phase := .rc9, trace := s.trace ++ targetSlotEvents r
        nibbles := s.nibbles ++ [.target r], target := tgt } := by
    apply State.ext <;> simp [hlow, h]
  simp only [rc9, hread, abortSync, report, markDesynced]

/-- A read cycle whose RSYNC `r` did not end it, after RC9 (R131). -/
def readSynced (a : Addr) (n : Nat) (c x r : Nibble) (tgt : Target) (s : State) : State :=
  { s with
    lines := linesAfterCycle .low s.lines
    addr := a, len := n, kind := .memoryRead, rx := [], sample := r
    warning := false, phase := .rc9
    trace := s.trace ++ cycleEvents true (hostEntries (readFrameHost a c)) [x, r]
    nibbles := s.nibbles ++ hostEntries (readFrameHost a c) ++ [.target x, .target r]
    reports := s.reports ++ (if rsyncAccepted r then [] else [.diagSync a r])
    target := tgt }

/-- RC1 to RC9 (R131, R142, R209). -/
theorem rc9_readHead (a : Addr) (n : Nat) (c x r : Nibble) (tgt : Target) (s : State)
    (hc : sizeCode n .memoryRead = some c)
    (hxr : s.target.draws s.params 2 (s.nibbles ++ hostEntries (readFrameHost a c)) = ([x, r], tgt)) :
    rc9 (readHead c (loadRead a n s)) =
      if rsyncAccepted r = true ∨ s.diagnostic = true then .ok () (readSynced a n c x r tgt s)
      else .raised (.syncError .rsync .memoryRead a r) (readAborted a n x r tgt s) := by
  obtain ⟨⟨hx, hr⟩, htgt⟩ := by simpa [draws_succ] using hxr
  rw [hx] at hr htgt
  have hhead : readHead c (loadRead a n s) =
      { s with
        lines := linesAfterCycle .low s.lines
        addr := a, len := n, kind := .memoryRead, rx := [], sample := x
        warning := false, phase := .rc8
        trace := s.trace ++ cycleEvents true (hostEntries (readFrameHost a c)) [x]
        nibbles := s.nibbles ++ hostEntries (readFrameHost a c) ++ [.target x]
        target := (s.target.draw s.params (s.nibbles ++ hostEntries (readFrameHost a c))).2 } := by
    rw [readHead_eq]; apply State.ext <;> simp [hx]
  rw [hhead, rc9_eq _ r tgt (targetSlotLines_linesAfterCycle _ _)
    (Prod.ext (by simpa using hr) (by simpa using htgt))]
  rcases hb : rsyncAccepted r <;> rcases hg : s.diagnostic <;>
    simp [readSynced, readAborted, cycleEvents, codeOf_eq hc, hb, hg]

/-- A read cycle of a ready engine with a legal length, whatever the target answers: it ends at a
fatal RSYNC, or it runs to its end (R130, R131, R134, R142). -/
theorem readCycle_cases (a : Addr) (n : Nat) (c : Nibble) (s : State)
    (hp : s.prepared = true) (hd : s.desync = false) (hc : sizeCode n .memoryRead = some c) :
    let log := s.nibbles ++ hostEntries (readFrameHost a c)
    (∃ x r tgt, s.target.draws s.params 2 log = ([x, r], tgt) ∧ rsyncAccepted r = false ∧
      s.diagnostic = false ∧
      readCycle a n s = .raised (.syncError .rsync .memoryRead a r) (readAborted a n x r tgt s)) ∨
    (∃ x r bytes t y tgt, bytes.length = n ∧
      s.target.draws s.params (4 + 2 * n) log = (readFrameTarget x r bytes t y, tgt) ∧
      (rsyncAccepted r = true ∨ s.diagnostic = true) ∧
      readCycle a n s = .ok (bytes, !(tarExpected t)) (readDone a bytes x r t y tgt s)) := by
  intro log
  have hn := (sizeCode_range hc).1
  obtain ⟨x, r, tgt, hxr⟩ : ∃ x r tgt, s.target.draws s.params 2 log = ([x, r], tgt) := ⟨_, _, _, rfl⟩
  have h9 := rc9_readHead a n c x r tgt s hc hxr
  have hrun : readCycle a n s = (rc9 (readHead c (loadRead a n s))).bind fun _ s =>
      .ok ((readTail s).rx, (readTail s).warning) (readTail s) := by
    simp [readCycle, entryChecks_ready hp hd hc, Ran.bind]
  by_cases hok : rsyncAccepted r = true ∨ s.diagnostic = true
  · right
    rw [if_pos hok] at h9
    obtain ⟨bytes, t, y, hlen, hdraw, htail⟩ :=
      readTail_eq (readSynced a n c x r tgt s)
        (targetSlotLines_linesAfterCycle _ _) rfl rfl (by simp only [readSynced]; omega)
    have hadd := draws_add s.params 2 (2 * n + 2) log s.target
    have hnum : 2 + (2 * n + 2) = 4 + 2 * n := by ring
    simp only [hxr, List.map_cons, List.map_nil, hnum] at hadd
    have hlog : (readSynced a n c x r tgt s).nibbles =
        log ++ [.target x, .target r] := rfl
    rw [hlog] at hdraw htail
    simp only [readSynced] at hlen hdraw htail
    refine ⟨x, r, bytes, t, y, (s.target.draws s.params (4 + 2 * n) log).2, hlen, ?_, hok, ?_⟩
    · rw [hadd, hdraw]; simp [readFrameTarget]
    · have hdone : readTail (readSynced a n c x r tgt s) =
          readDone a bytes x r t y (s.target.draws s.params (4 + 2 * n) log).2 s := by
        rw [readSynced, htail, hadd]
        apply State.ext <;>
          simp [readDone, cycleEvents, readFrameTarget, hlen, codeOf_eq hc, log]
      rw [hrun, h9, Ran.bind, hdone]
      simp [readDone]
  · left
    rw [if_neg hok] at h9
    simp only [not_or, Bool.not_eq_true] at hok
    refine ⟨x, r, tgt, hxr, hok.1, hok.2, ?_⟩
    rw [hrun, h9, Ran.bind]

/-! ### The write cycle -/

/-- Whatever the data phase drives, the next host slot drives over it. -/
theorem hostSlotLines_writeData (v : Nibble) (f : Bool) (bs : List Byte) (i : Nat) (s : State) :
    hostSlotLines v f (writeData bs i s).lines = hostSlotLines v f s.lines := by
  induction bs generalizing i s with
  | nil => rfl
  | cons b bs ih => simp [writeData, ih]

/-- The data phase of a write (R77, R135): two host slots a byte, low nibble first. -/
theorem writeData_eq (bs : List Byte) (i : Nat) (s : State) :
    writeData bs i s =
      { s with
        lines := (writeData bs i s).lines
        idx := if bs = [] then s.idx else i + bs.length - 1
        trace := s.trace ++ ((putBytes bs).map (NibbleEvent.host · false)).flatMap slotEvents
        nibbles := s.nibbles ++ (putBytes bs).map (NibbleEvent.host · false) } := by
  induction bs generalizing i s with
  | nil => simp [writeData, putBytes]
  | cons b bs ih =>
    simp only [writeData]
    rw [ih]
    cases bs with
    | nil => apply State.ext <;> simp [putBytes, writeData]
    | cons c cs =>
      apply State.ext <;> simp [putBytes]
      omega

section

variable (bs : List Byte) (i : Nat) (s : State)

@[simp] theorem writeData_addr : (writeData bs i s).addr = s.addr := by rw [writeData_eq]
@[simp] theorem writeData_len : (writeData bs i s).len = s.len := by rw [writeData_eq]
@[simp] theorem writeData_kind : (writeData bs i s).kind = s.kind := by rw [writeData_eq]
@[simp] theorem writeData_tx : (writeData bs i s).tx = s.tx := by rw [writeData_eq]
@[simp] theorem writeData_rx : (writeData bs i s).rx = s.rx := by rw [writeData_eq]
@[simp] theorem writeData_lo : (writeData bs i s).lo = s.lo := by rw [writeData_eq]
@[simp] theorem writeData_sample : (writeData bs i s).sample = s.sample := by rw [writeData_eq]
@[simp] theorem writeData_warning : (writeData bs i s).warning = s.warning := by rw [writeData_eq]
@[simp] theorem writeData_phase : (writeData bs i s).phase = s.phase := by rw [writeData_eq]
@[simp] theorem writeData_desync : (writeData bs i s).desync = s.desync := by rw [writeData_eq]
@[simp] theorem writeData_prepared : (writeData bs i s).prepared = s.prepared := by rw [writeData_eq]
@[simp] theorem writeData_diagnostic : (writeData bs i s).diagnostic = s.diagnostic := by rw [writeData_eq]
@[simp] theorem writeData_device : (writeData bs i s).device = s.device := by rw [writeData_eq]
@[simp] theorem writeData_params : (writeData bs i s).params = s.params := by rw [writeData_eq]
@[simp] theorem writeData_reports : (writeData bs i s).reports = s.reports := by rw [writeData_eq]
@[simp] theorem writeData_target : (writeData bs i s).target = s.target := by rw [writeData_eq]
@[simp] theorem writeData_calls : (writeData bs i s).calls = s.calls := by rw [writeData_eq]
@[simp] theorem writeData_results : (writeData bs i s).results = s.results := by rw [writeData_eq]
@[simp] theorem writeData_polls : (writeData bs i s).polls = s.polls := by rw [writeData_eq]
@[simp] theorem writeData_idx : (writeData bs i s).idx =
    if bs = [] then s.idx else i + bs.length - 1 := by rw [writeData_eq]
@[simp] theorem writeData_trace : (writeData bs i s).trace =
    s.trace ++ ((putBytes bs).map (NibbleEvent.host · false)).flatMap slotEvents := by rw [writeData_eq]
@[simp] theorem writeData_nibbles : (writeData bs i s).nibbles =
    s.nibbles ++ (putBytes bs).map (NibbleEvent.host · false) := by rw [writeData_eq]

end

/-- WC6 and WC7: the data and the host half of the turnaround (R135, R140). -/
theorem wc7_wc6_eq (s : State) (hne : s.tx ≠ []) :
    wc7 (wc6 s) =
      { s with
        lines := hostSlotLines Config.tarHost false s.lines
        idx := s.tx.length - 1, phase := .wc7
        trace := s.trace ++
          ((putBytes s.tx ++ [Config.tarHost]).map (NibbleEvent.host · false)).flatMap slotEvents
        nibbles := s.nibbles ++ (putBytes s.tx ++ [Config.tarHost]).map (NibbleEvent.host · false) } := by
  apply State.ext <;> simp [wc7, wc6, hostSlotLines_writeData, hne]

/-- WC8 and WC9: the switch to input and the first regain pulse (R135, R140). -/
theorem wc9_wc8_eq (s : State) (x : Nibble) (tgt : Target)
    (h : s.target.draw s.params s.nibbles = (x, tgt)) :
    wc9 (wc8 s) =
      { s with
        lines := targetSlotLines (setLinesInput s.params.writeTarZeroFirst s).lines
        sample := x, phase := .wc9
        trace := s.trace ++ inputEvents s.params.writeTarZeroFirst ++ targetSlotEvents x
        nibbles := s.nibbles ++ [.target x], target := tgt } := by
  apply State.ext <;> simp [wc9, wc8, h]

/-- A write cycle up to the discarded pulse of WC9 (R135, R140). -/
theorem writeHead_eq (a : Addr) (bytes : List Byte) (c x : Nibble) (tgt : Target) (s : State)
    (hc : sizeCode bytes.length .memoryWrite = some c)
    (h : s.target.draw s.params (s.nibbles ++ hostEntries (writeFrameHost a c bytes)) = (x, tgt)) :
    writeHead c (loadWrite a bytes s) = enter .wc9 (writeSent a bytes [x] tgt s) := by
  have hne : bytes ≠ [] := by
    rintro rfl; simp [sizeCode] at hc
  rw [writeHead, wc1, loadWrite_addr, sendHeader_eq, wc7_wc6_eq _ (by simpa using hne), wc9_wc8_eq _ x tgt]
  · apply State.ext <;>
      simp [writeSent, writeFrameHost, putHeader, hostEntries, cycleEvents, codeOf_eq hc]
    unfold writeRestLevel
    cases s.params.writeTarZeroFirst <;> rfl
  · rw [← h]
    simp [writeFrameHost, putHeader, hostEntries]

/-- One more target slot of a write cycle. -/
theorem readNibble_writeSent (p : Phase) (a : Addr) (bytes : List Byte) (ts : List Nibble) (v : Nibble)
    (t tgt : Target) (s : State)
    (h : t.draw s.params (s.nibbles ++ hostEntries (writeFrameHost a (codeOf bytes.length .memoryWrite)
      bytes) ++ ts.map .target) = (v, tgt)) :
    readNibble (enter p (writeSent a bytes ts t s)) =
      enter p (writeSent a bytes (ts ++ [v]) tgt s) := by
  simp only [List.append_assoc] at h
  apply State.ext <;>
    simp [writeSent, h, cycleEvents, targetSlotLines_linesAfterCycle]

/-- WC10 (R136): RSYNC, fatal in either mode. -/
theorem wc10_eq (a : Addr) (bytes : List Byte) (x r : Nibble) (t tgt : Target) (s : State)
    (h : t.draw s.params (s.nibbles ++ hostEntries (writeFrameHost a (codeOf bytes.length .memoryWrite)
      bytes) ++ [.target x]) = (r, tgt)) :
    wc10 (enter .wc9 (writeSent a bytes [x] t s)) =
      if rsyncAccepted r then .ok () (enter .wc10 (writeSent a bytes [x, r] tgt s))
      else .raised (.syncError .rsync .memoryWrite a r) (writeAborted a bytes [x, r] tgt s) := by
  have hread := readNibble_writeSent .wc10 a bytes [x] r t tgt s h
  have hs : (enter .wc10 (writeSent a bytes [x, r] tgt s)).sample = r := rfl
  have ha : (enter .wc10 (writeSent a bytes [x, r] tgt s)).addr = a := rfl
  simp only [wc10]
  rw [show enter .wc10 (enter .wc9 (writeSent a bytes [x] t s)) =
    enter .wc10 (writeSent a bytes [x] t s) from rfl, hread, List.singleton_append, hs, ha]
  rfl

/-- WC11 (R137): the trailing turnaround, fatal on a mismatch. -/
theorem wc11_eq (a : Addr) (bytes : List Byte) (x r u : Nibble) (t tgt : Target) (s : State)
    (h : t.draw s.params (s.nibbles ++ hostEntries (writeFrameHost a (codeOf bytes.length .memoryWrite)
      bytes) ++ [.target x, .target r]) = (u, tgt)) :
    wc11 (enter .wc10 (writeSent a bytes [x, r] t s)) =
      if tarExpected u then .ok () (enter .wc11 (writeSent a bytes [x, r, u] tgt s))
      else .raised (.syncError .tar .memoryWrite a u) (writeAborted a bytes [x, r, u] tgt s) := by
  have hread := readNibble_writeSent .wc11 a bytes [x, r] u t tgt s h
  have hs : (enter .wc11 (writeSent a bytes [x, r, u] tgt s)).sample = u := rfl
  have ha : (enter .wc11 (writeSent a bytes [x, r, u] tgt s)).addr = a := rfl
  simp only [wc11]
  rw [show enter .wc11 (enter .wc10 (writeSent a bytes [x, r] t s)) =
    enter .wc11 (writeSent a bytes [x, r] t s) from rfl, hread,
    show [x, r] ++ [u] = [x, r, u] from rfl, hs, ha]
  rfl

/-- WC12 and the end (R138). -/
theorem wc12_idle_eq (a : Addr) (bytes : List Byte) (x r u y : Nibble) (t tgt : Target) (s : State)
    (h : t.draw s.params (s.nibbles ++ hostEntries (writeFrameHost a (codeOf bytes.length .memoryWrite)
      bytes) ++ [.target x, .target r, .target u]) = (y, tgt)) :
    enter .idle (wc12 (enter .wc11 (writeSent a bytes [x, r, u] t s))) =
      enter .idle (writeSent a bytes [x, r, u, y] tgt s) := by
  have hread := readNibble_writeSent .wc12 a bytes [x, r, u] y t tgt s h
  rw [wc12, discardNibble, show enter .wc12 (enter .wc11 (writeSent a bytes [x, r, u] t s)) =
    enter .wc12 (writeSent a bytes [x, r, u] t s) from rfl, hread]
  rfl

/-- The one RSYNC nibble a write cycle accepts, and the one trailing turnaround. -/
theorem rsyncAccepted_iff (r : Nibble) : rsyncAccepted r = true ↔ r = 0x0 := by
  revert r; decide

theorem tarExpected_iff (t : Nibble) : tarExpected t = true ↔ t = 0xF := by
  revert t; decide

/-- A write cycle of a ready engine with a legal length, whatever the target answers: it ends at a
fatal RSYNC, at a fatal trailing turnaround, or it runs to its end (R135 to R138, R142). -/
theorem writeCycle_cases (a : Addr) (bytes : List Byte) (c : Nibble) (s : State)
    (hp : s.prepared = true) (hd : s.desync = false)
    (hc : sizeCode bytes.length .memoryWrite = some c) :
    let log := s.nibbles ++ hostEntries (writeFrameHost a c bytes)
    (∃ x r tgt, s.target.draws s.params 2 log = ([x, r], tgt) ∧ r ≠ 0x0 ∧
      writeCycle a bytes s =
        .raised (.syncError .rsync .memoryWrite a r) (writeAborted a bytes [x, r] tgt s)) ∨
    (∃ x u tgt, s.target.draws s.params 3 log = ([x, 0x0, u], tgt) ∧ u ≠ 0xF ∧
      writeCycle a bytes s =
        .raised (.syncError .tar .memoryWrite a u) (writeAborted a bytes [x, 0x0, u] tgt s)) ∨
    (∃ x y tgt, s.target.draws s.params 4 log = ([x, 0x0, 0xF, y], tgt) ∧
      writeCycle a bytes s = .ok () (writeDone a bytes x y tgt s)) := by
  intro log
  have hcode := codeOf_eq hc
  obtain ⟨x, t0, hx⟩ : ∃ x t0, s.target.draw s.params log = (x, t0) := ⟨_, _, rfl⟩
  obtain ⟨r, t1, hr⟩ : ∃ r t1, t0.draw s.params (log ++ [.target x]) = (r, t1) := ⟨_, _, rfl⟩
  obtain ⟨u, t2, hu⟩ : ∃ u t2, t1.draw s.params (log ++ [.target x, .target r]) = (u, t2) :=
    ⟨_, _, rfl⟩
  obtain ⟨y, t3, hy⟩ :
      ∃ y t3, t2.draw s.params (log ++ [.target x, .target r, .target u]) = (y, t3) := ⟨_, _, rfl⟩
  have hd2 : s.target.draws s.params 2 log = ([x, r], t1) := by simp [draws_succ, hx, hr]
  have hd3 : s.target.draws s.params 3 log = ([x, r, u], t2) := by simp [draws_succ, hx, hr, hu]
  have hd4 : s.target.draws s.params 4 log = ([x, r, u, y], t3) := by
    simp [draws_succ, hx, hr, hu, hy]
  have hrun : writeCycle a bytes s = (wc10 (writeHead c (loadWrite a bytes s))).bind fun _ s =>
      (wc11 s).bind fun _ s => .ok () (enter .idle (wc12 s)) := by
    simp [writeCycle, entryChecks_ready hp hd hc, Ran.bind]
  rw [writeHead_eq a bytes c x t0 s hc hx, wc10_eq a bytes x r t0 t1 s (by rw [hcode]; exact hr)] at hrun
  by_cases h10 : rsyncAccepted r = true
  · have hr0 := (rsyncAccepted_iff r).1 h10
    subst hr0
    rw [if_pos h10, Ran.bind, wc11_eq a bytes x 0x0 u t1 t2 s (by rw [hcode]; exact hu)] at hrun
    by_cases h11 : tarExpected u = true
    · have hu0 := (tarExpected_iff u).1 h11
      subst hu0
      refine .inr (.inr ⟨x, y, t3, hd4, ?_⟩)
      rw [hrun, if_pos h11, Ran.bind, wc12_idle_eq a bytes x 0x0 0xF y t2 t3 s (by rw [hcode]; exact hy)]
      rfl
    · refine .inr (.inl ⟨x, u, t2, hd3, fun h => h11 ((tarExpected_iff u).2 h), ?_⟩)
      rw [hrun, if_neg h11, Ran.bind]
  · refine .inl ⟨x, r, t1, hd2, fun h => h10 ((rsyncAccepted_iff r).2 h), ?_⟩
    rw [hrun, if_neg h10, Ran.bind]

end Sys2Proof.Machine
end

