-- ==== Sys2Proof/Laws/Decode.lean ====
section
/-! SUPPORT. Each field read back from its words, and the words a field was read from. -/

namespace Sys2Proof

open Sys2Proof.Machine

/-! ### Sequencing -/

@[simp] theorem andThen_ok {α β : Type} (a : α) (ws : List Nibble) (f : α → List Nibble → Field β) :
    andThen (.ok (a, ws)) f = f a ws := rfl

@[simp] theorem andThen_error {α β : Type} (e : DecodeError) (f : α → List Nibble → Field β) :
    andThen (.error e) f = .error e := rfl

/-- What a sequence answers, its first field answered and its second answered from there. -/
theorem andThen_eq_ok {α β : Type} {x : Field α} {f : α → List Nibble → Field β} {r : β × List Nibble} :
    andThen x f = .ok r ↔ ∃ a ws, x = .ok (a, ws) ∧ f a ws = .ok r := by
  cases x with
  | error e => simp
  | ok p => obtain ⟨a, ws⟩ := p; simp

/-! ### Nibbles of numbers -/

/-- The eight nibbles of a 32-bit number are the number. -/
theorem word_of_nibbles (a : BitVec 32) :
    ((a >>> 28).setWidth 4 ++ addrNibble a 0 ++ addrNibble a 1 ++ addrNibble a 2 ++ addrNibble a 3 ++
      addrNibble a 4 ++ addrNibble a 5 ++ addrNibble a 6 : BitVec 32) = a := by
  apply BitVec.eq_of_getLsbD_eq
  intro i hi
  simp only [addrNibble, BitVec.getLsbD_append, BitVec.getLsbD_setWidth, BitVec.getLsbD_ushiftRight]
  interval_cases i <;> simp

/-- The nibbles of a number made of eight nibbles. -/
theorem nibbles_of_word (a7 a6 a5 a4 a3 a2 a1 a0 : Nibble) :
    putWord (a7 ++ a6 ++ a5 ++ a4 ++ a3 ++ a2 ++ a1 ++ a0 : BitVec 32) =
      [a7, a6, a5, a4, a3, a2, a1, a0] := by
  simp only [putWord, putFrameAddr, List.cons.injEq, and_true]
  refine ⟨?_, ?_, ?_, ?_, ?_, ?_, ?_, ?_⟩ <;>
  · apply BitVec.eq_of_getLsbD_eq
    intro i hi
    simp only [addrNibble, BitVec.getLsbD_append, BitVec.getLsbD_setWidth, BitVec.getLsbD_ushiftRight]
    interval_cases i <;> simp

/-- The seven ADDR nibbles of a 28-bit address are the address (R75). -/
theorem frameAddr_of_nibbles (a : Addr) :
    (addrNibble a 0 ++ addrNibble a 1 ++ addrNibble a 2 ++ addrNibble a 3 ++
      addrNibble a 4 ++ addrNibble a 5 ++ addrNibble a 6 : BitVec 28) = frameAddr a := by
  apply BitVec.eq_of_getLsbD_eq
  intro i hi
  simp only [addrNibble, frameAddr, BitVec.getLsbD_append, BitVec.getLsbD_setWidth,
    BitVec.getLsbD_ushiftRight]
  interval_cases i <;> simp

/-- The ADDR nibbles of an address made of seven nibbles (R75). -/
theorem nibbles_of_frameAddr (a6 a5 a4 a3 a2 a1 a0 : Nibble) :
    putFrameAddr (wideAddr (a6 ++ a5 ++ a4 ++ a3 ++ a2 ++ a1 ++ a0)) = [a6, a5, a4, a3, a2, a1, a0] := by
  simp only [putFrameAddr, List.cons.injEq, and_true]
  refine ⟨?_, ?_, ?_, ?_, ?_, ?_, ?_⟩ <;>
  · apply BitVec.eq_of_getLsbD_eq
    intro i hi
    simp only [addrNibble, wideAddr, BitVec.getLsbD_append, BitVec.getLsbD_setWidth,
      BitVec.getLsbD_ushiftRight]
    interval_cases i <;> simp

/-- Widening a frame's address and dropping bits 31..28 again changes nothing (R50). -/
@[simp] theorem frameAddr_wideAddr (a : FrameAddr) : frameAddr (wideAddr a) = a := by
  apply BitVec.eq_of_getLsbD_eq
  intro i hi
  simp [frameAddr, wideAddr, hi]

/-- A code point of a character, from its six nibbles. -/
theorem codePoint_charNibble (c : Char) :
    codePoint (charNibble c 0) (charNibble c 1) (charNibble c 2) (charNibble c 3) (charNibble c 4)
      (charNibble c 5) = c.toNat := by
  have hlt : c.toNat < 2 ^ 24 := by
    have := c.valid
    simp only [UInt32.isValidChar, Nat.isValidChar] at this
    have h2 : c.toNat = c.val.toNat := rfl
    omega
  have : (charNibble c 0 ++ charNibble c 1 ++ charNibble c 2 ++ charNibble c 3 ++ charNibble c 4 ++
      charNibble c 5 : BitVec 24) = BitVec.ofNat 24 c.toNat := by
    apply BitVec.eq_of_getLsbD_eq
    intro i hi
    simp only [charNibble, BitVec.getLsbD_append, BitVec.getLsbD_setWidth, BitVec.getLsbD_ushiftRight]
    interval_cases i <;> simp
  rw [codePoint, this, BitVec.toNat_ofNat, Nat.mod_eq_of_lt hlt]

/-- The six nibbles of a character read from six nibbles. -/
theorem charNibbles_ofNat (c5 c4 c3 c2 c1 c0 : Nibble) (h : (codePoint c5 c4 c3 c2 c1 c0).isValidChar) :
    putChars [Char.ofNat (codePoint c5 c4 c3 c2 c1 c0)] = [c5, c4, c3, c2, c1, c0] := by
  have hnat : (Char.ofNat (codePoint c5 c4 c3 c2 c1 c0)).toNat = codePoint c5 c4 c3 c2 c1 c0 := by
    rw [Char.ofNat, dif_pos h]; rfl
  have hbv : BitVec.ofNat 24 (codePoint c5 c4 c3 c2 c1 c0) = c5 ++ c4 ++ c3 ++ c2 ++ c1 ++ c0 := by
    simp [codePoint]
  simp only [putChars, charNibble, hnat, hbv, List.append_nil, List.cons.injEq, and_true]
  refine ⟨?_, ?_, ?_, ?_, ?_, ?_⟩ <;>
  · apply BitVec.eq_of_getLsbD_eq
    intro i hi
    simp only [BitVec.getLsbD_append, BitVec.getLsbD_setWidth, BitVec.getLsbD_ushiftRight]
    interval_cases i <;> simp

/-! ### Fields read back from their words -/

@[simp] theorem takeFlag_putFlag (b : Bool) (rest : List Nibble) :
    takeFlag (putFlag b ++ rest) = .ok (b, rest) := by
  cases b <;> rfl

@[simp] theorem takeByte_putByte (b : Byte) (rest : List Nibble) :
    takeByte (putByte b ++ rest) = .ok (b, rest) := by
  simp [putByte, takeByte]

@[simp] theorem takeWord_putWord (a : BitVec 32) (rest : List Nibble) :
    takeWord (putWord a ++ rest) = .ok (a, rest) := by
  simp only [putWord, putFrameAddr, List.cons_append, List.nil_append, takeWord, word_of_nibbles]

@[simp] theorem takeFrameAddr_putFrameAddr (a : Addr) (rest : List Nibble) :
    takeFrameAddr (putFrameAddr a ++ rest) = .ok (frameAddr a, rest) := by
  simp only [putFrameAddr, List.cons_append, List.nil_append, takeFrameAddr, frameAddr_of_nibbles]

/-- A digit that ends a count. -/
theorem digit_last {n : Nat} (h : n < 8) :
    (BitVec.ofNat 4 n).getLsbD 3 = false ∧ (BitVec.ofNat 4 n).toNat = n := by
  interval_cases n <;> decide

/-- A digit that more follow. -/
theorem digit_more {d : Nat} (h : d < 8) :
    (BitVec.ofNat 4 (8 + d)).getLsbD 3 = true ∧ (BitVec.ofNat 4 (8 + d)).toNat % 8 = d := by
  interval_cases d <;> decide

theorem takeCount_putDigits (fuel n : Nat) (h : n ≤ fuel) (rest : List Nibble) :
    takeCount (putDigits fuel n ++ rest) = .ok (n, rest) := by
  induction fuel generalizing n with
  | zero =>
    obtain rfl : n = 0 := by omega
    rfl
  | succ fuel ih =>
    rw [putDigits]
    split
    · rename_i hn
      simp only [List.cons_append, List.nil_append, takeCount, (digit_last hn).1, (digit_last hn).2]
      rfl
    · rename_i hn
      have hd := digit_more (Nat.mod_lt n (by omega : 0 < 8))
      simp only [List.cons_append, takeCount, hd.1, hd.2, ih (n / 8 - 1) (by omega), if_true]
      congr 2
      omega

/-- A count is read back, whatever its size. -/
@[simp] theorem takeCount_putCount (n : Nat) (rest : List Nibble) :
    takeCount (putCount n ++ rest) = .ok (n, rest) := takeCount_putDigits n n le_rfl rest

/-- More fuel than a count needs changes no digit. -/
theorem putDigits_fuel {fuel more n : Nat} (h : n ≤ fuel) (hm : n ≤ more) :
    putDigits fuel n = putDigits more n := by
  induction fuel generalizing more n with
  | zero =>
    obtain rfl : n = 0 := by omega
    cases more <;> rfl
  | succ fuel ih =>
    cases more with
    | zero =>
      obtain rfl : n = 0 := by omega
      rfl
    | succ more =>
      rw [putDigits, putDigits]
      split
      · rfl
      · rw [ih (more := more) (by omega) (by omega)]

/-- The digits of a count that more than one digit gives. -/
theorem putCount_more (d n : Nat) (h : d < 8) :
    putCount (d + 8 * (n + 1)) = BitVec.ofNat 4 (8 + d) :: putCount n := by
  obtain ⟨k, hk⟩ : ∃ k, d + 8 * (n + 1) = k + 1 := ⟨d + 8 * n + 7, by omega⟩
  rw [putCount, hk, putDigits, if_neg (by omega), ← hk]
  rw [show (d + 8 * (n + 1)) % 8 = d by omega, show (d + 8 * (n + 1)) / 8 - 1 = n by omega, putCount,
    putDigits_fuel (fuel := k) (more := n) (by omega) le_rfl]

@[simp] theorem takeBytes_putBytes (bs : List Byte) (rest : List Nibble) :
    takeBytes (putBytes bs ++ rest) bs.length = .ok (bs, rest) := by
  induction bs with
  | nil => simp [takeBytes, putBytes]
  | cons b bs ih => simp [takeBytes, putBytes, ih]

@[simp] theorem takeChars_putChars (cs : List Char) (rest : List Nibble) :
    takeChars (putChars cs ++ rest) cs.length = .ok (cs, rest) := by
  induction cs with
  | nil => simp [takeChars, putChars]
  | cons c cs ih =>
    simp only [putChars, List.cons_append, List.nil_append, List.length_cons, takeChars,
      codePoint_charNibble, ih]
    have hv : c.toNat.isValidChar := c.valid
    rw [if_pos hv, Char.ofNat_toNat]

@[simp] theorem takePairs_putPairs (ps : List CmdPair) (rest : List Nibble) :
    takePairs (putPairs ps ++ rest) ps.length = .ok (ps, rest) := by
  induction ps with
  | nil => simp [takePairs, putPairs]
  | cons p ps ih =>
    simp only [putPairs, putByte, putWord, putFrameAddr, List.cons_append, List.nil_append,
      List.length_cons, takePairs, ih, byteOf_hi_lo, word_of_nibbles]

@[simp] theorem takeLevel_putFlag (l : Level) (rest : List Nibble) :
    takeLevel (putFlag (bitOfLevel l) ++ rest) = .ok (l, rest) := by
  cases l <;> rfl

@[simp] theorem takeKind_putFlag (k : BusCycleKind) (rest : List Nibble) :
    takeKind (putFlag (k == .memoryWrite) ++ rest) = .ok (k, rest) := by
  cases k <;> rfl

@[simp] theorem takeByteList_put (bs : List Byte) (rest : List Nibble) :
    takeByteList (putCount bs.length ++ (putBytes bs ++ rest)) = .ok (bs, rest) := by
  simp [takeByteList]

@[simp] theorem takePairList_put (ps : List CmdPair) (rest : List Nibble) :
    takePairList (putCount ps.length ++ (putPairs ps ++ rest)) = .ok (ps, rest) := by
  simp [takePairList]

@[simp] theorem takeDescriptor_put (d : DeviceDescriptor) (rest : List Nibble) :
    takeDescriptor (putDescriptor d ++ rest) = .ok (d, rest) := by
  simp [takeDescriptor, putDescriptor]

@[simp] theorem readSize_readCode (size : ReadLength) (rest : List Nibble) :
    readSize (readCode size) rest = .ok (size, rest) := by
  cases size <;> rfl

@[simp] theorem takeData_dataBytes (data : WriteData) (rest : List Nibble) :
    takeData (writeCode data) (putBytes (dataBytes data) ++ rest) = .ok (data, rest) := by
  cases data <;> simp [takeData, writeCode, dataBytes, putBytes]

/-- A header read back (R71, R72): bits 27..0 of the address and the size code. -/
@[simp] theorem takeHeader_put (a : Addr) (code : Nibble) (rest : List Nibble) :
    takeHeader (Config.idselValue :: (putFrameAddr a ++ (code :: rest))) =
      .ok ((frameAddr a, code), rest) := by
  simp [takeHeader, takeNibble]

/-- A read frame read back from its host slots (R92). -/
theorem decodeFrame_read (a : Addr) (size : ReadLength) (rest : List Nibble) :
    decodeFrame (putHeader Config.startRead a (readCode size) ++ rest) =
      .ok (.read (frameAddr a) size, rest) := by
  simp [decodeFrame, putHeader]

/-- A write frame read back from its host slots (R92). -/
theorem decodeFrame_write (a : Addr) (data : WriteData) (rest : List Nibble) :
    decodeFrame (putHeader Config.startWrite a (writeCode data) ++ (putBytes (dataBytes data) ++ rest)) =
      .ok (.write (frameAddr a) data, rest) := by
  simp [decodeFrame, putHeader, Config.startRead, Config.startWrite]

/-! ### The words a field was read from -/

theorem takeNibble_ok {ws rest : List Nibble} {v : Nibble} (h : takeNibble ws = .ok (v, rest)) :
    ws = v :: rest := by
  cases ws <;> simp_all [takeNibble]

theorem takeFlag_ok {ws rest : List Nibble} {b : Bool} (h : takeFlag ws = .ok (b, rest)) :
    ws = putFlag b ++ rest := by
  cases ws with
  | nil => simp [takeFlag] at h
  | cons v ws =>
    simp only [takeFlag] at h
    split_ifs at h with h0 h1 <;> simp_all [putFlag]

theorem takeByte_ok {ws rest : List Nibble} {b : Byte} (h : takeByte ws = .ok (b, rest)) :
    ws = putByte b ++ rest := by
  unfold takeByte at h
  split at h
  · simp only [Except.ok.injEq, Prod.mk.injEq] at h
    obtain ⟨rfl, rfl⟩ := h
    simp [putByte]
  · simp at h

theorem takeWord_ok {ws rest : List Nibble} {a : BitVec 32} (h : takeWord ws = .ok (a, rest)) :
    ws = putWord a ++ rest := by
  unfold takeWord at h
  split at h
  · simp only [Except.ok.injEq, Prod.mk.injEq] at h
    obtain ⟨rfl, rfl⟩ := h
    rw [nibbles_of_word]; rfl
  · simp at h

theorem takeFrameAddr_ok {ws rest : List Nibble} {a : FrameAddr} (h : takeFrameAddr ws = .ok (a, rest)) :
    ws = putFrameAddr (wideAddr a) ++ rest := by
  unfold takeFrameAddr at h
  split at h
  · simp only [Except.ok.injEq, Prod.mk.injEq] at h
    obtain ⟨rfl, rfl⟩ := h
    rw [nibbles_of_frameAddr]; rfl
  · simp at h

/-- The digit that a digit's value and its mark make. -/
theorem digit_eq (v : Nibble) :
    (v.getLsbD 3 = true → BitVec.ofNat 4 (8 + v.toNat % 8) = v) ∧ (v.getLsbD 3 = false → v.toNat < 8) := by
  revert v; decide

theorem takeCount_ok {ws rest : List Nibble} {n : Nat} (h : takeCount ws = .ok (n, rest)) :
    ws = putCount n ++ rest := by
  induction ws generalizing n with
  | nil => cases h
  | cons v ws ih =>
    rw [takeCount] at h
    split at h
    · rename_i hv
      split at h
      · rename_i m r hr
        simp only [Except.ok.injEq, Prod.mk.injEq] at h
        obtain ⟨rfl, rfl⟩ := h
        rw [putCount_more _ _ (Nat.mod_lt _ (by omega)), (digit_eq v).1 hv, ih hr]
        rfl
      · cases h
    · rename_i hv
      simp only [Except.ok.injEq, Prod.mk.injEq] at h
      obtain ⟨rfl, rfl⟩ := h
      have hlt := (digit_eq v).2 (by simpa using hv)
      have hput : putCount v.toNat = [v] := by
        rw [putCount]
        cases hk : v.toNat with
        | zero => rw [putDigits, ← hk, BitVec.ofNat_toNat, BitVec.setWidth_eq]
        | succ k => rw [putDigits, if_pos (by omega), ← hk, BitVec.ofNat_toNat, BitVec.setWidth_eq]
      rw [hput]
      rfl

theorem takeBytes_ok {ws rest : List Nibble} {n : Nat} {bs : List Byte}
    (h : takeBytes ws n = .ok (bs, rest)) : bs.length = n ∧ ws = putBytes bs ++ rest := by
  induction n generalizing ws bs with
  | zero => simp only [takeBytes, Except.ok.injEq, Prod.mk.injEq] at h; obtain ⟨rfl, rfl⟩ := h; simp [putBytes]
  | succ n ih =>
    unfold takeBytes at h
    split at h
    · simp_all
    · rename_i heq
      obtain rfl := Nat.succ.inj heq
      split at h
      · rename_i bs' r hr
        simp only [Except.ok.injEq, Prod.mk.injEq] at h
        obtain ⟨rfl, rfl⟩ := h
        obtain ⟨hl, hw⟩ := ih hr
        simp [hl, putBytes, hw]
      · simp at h
    · simp at h

theorem takeChars_ok {ws rest : List Nibble} {n : Nat} {cs : List Char}
    (h : takeChars ws n = .ok (cs, rest)) : cs.length = n ∧ ws = putChars cs ++ rest := by
  induction n generalizing ws cs with
  | zero => simp only [takeChars, Except.ok.injEq, Prod.mk.injEq] at h; obtain ⟨rfl, rfl⟩ := h; simp [putChars]
  | succ n ih =>
    unfold takeChars at h
    split at h
    · simp_all
    · rename_i heq
      obtain rfl := Nat.succ.inj heq
      simp only at h
      split at h
      · rename_i hv
        split at h
        · rename_i cs' r hr
          simp only [Except.ok.injEq, Prod.mk.injEq] at h
          obtain ⟨rfl, rfl⟩ := h
          obtain ⟨hl, hw⟩ := ih hr
          have hc := charNibbles_ofNat _ _ _ _ _ _ hv
          simp only [putChars, List.append_nil] at hc ⊢
          rw [hc, hw]
          simp [hl]
        · simp at h
      · simp at h
    · simp at h

theorem takePairs_ok {ws rest : List Nibble} {n : Nat} {ps : List CmdPair}
    (h : takePairs ws n = .ok (ps, rest)) : ps.length = n ∧ ws = putPairs ps ++ rest := by
  induction n generalizing ws ps with
  | zero => simp only [takePairs, Except.ok.injEq, Prod.mk.injEq] at h; obtain ⟨rfl, rfl⟩ := h; simp [putPairs]
  | succ n ih =>
    unfold takePairs at h
    split at h
    · simp_all
    · rename_i heq
      obtain rfl := Nat.succ.inj heq
      split at h
      · rename_i ps' r hr
        simp only [Except.ok.injEq, Prod.mk.injEq] at h
        obtain ⟨rfl, rfl⟩ := h
        obtain ⟨hl, hw⟩ := ih hr
        simp [hl, putPairs, putByte, hw, nibbles_of_word]
      · simp at h
    · simp at h

theorem takeLevel_ok {ws rest : List Nibble} {l : Level} (h : takeLevel ws = .ok (l, rest)) :
    ws = putFlag (bitOfLevel l) ++ rest := by
  rw [takeLevel, andThen_eq_ok] at h
  obtain ⟨b, ws', h1, h2⟩ := h
  simp only [Except.ok.injEq, Prod.mk.injEq] at h2
  obtain ⟨rfl, rfl⟩ := h2
  rw [takeFlag_ok h1]
  cases b <;> rfl

theorem takeKind_ok {ws rest : List Nibble} {k : BusCycleKind} (h : takeKind ws = .ok (k, rest)) :
    ws = putFlag (k == .memoryWrite) ++ rest := by
  rw [takeKind, andThen_eq_ok] at h
  obtain ⟨b, ws', h1, h2⟩ := h
  simp only [Except.ok.injEq, Prod.mk.injEq] at h2
  obtain ⟨rfl, rfl⟩ := h2
  rw [takeFlag_ok h1]
  cases b <;> rfl

theorem takeByteList_ok {ws rest : List Nibble} {bs : List Byte} (h : takeByteList ws = .ok (bs, rest)) :
    ws = putCount bs.length ++ putBytes bs ++ rest := by
  rw [takeByteList, andThen_eq_ok] at h
  obtain ⟨n, ws', h1, h2⟩ := h
  obtain rfl := takeCount_ok h1
  obtain ⟨rfl, rfl⟩ := takeBytes_ok h2
  simp

theorem takePairList_ok {ws rest : List Nibble} {ps : List CmdPair} (h : takePairList ws = .ok (ps, rest)) :
    ws = putCount ps.length ++ putPairs ps ++ rest := by
  rw [takePairList, andThen_eq_ok] at h
  obtain ⟨n, ws', h1, h2⟩ := h
  obtain rfl := takeCount_ok h1
  obtain ⟨rfl, rfl⟩ := takePairs_ok h2
  simp

theorem takeDescriptor_ok {ws rest : List Nibble} {d : DeviceDescriptor}
    (h : takeDescriptor ws = .ok (d, rest)) : ws = putDescriptor d ++ rest := by
  simp only [takeDescriptor, andThen_eq_ok] at h
  obtain ⟨mfr, w1, h1, chip, w2, h2, n, w3, h3, name, w4, h4, wseq, w5, h5, rseq, w6, h6, h7⟩ := h
  simp only [Except.ok.injEq, Prod.mk.injEq] at h7
  obtain ⟨rfl, rfl⟩ := h7
  obtain rfl := takeCount_ok h3
  obtain ⟨rfl, rfl⟩ := takeChars_ok h4
  obtain rfl := takePairList_ok h5
  obtain rfl := takePairList_ok h6
  rw [takeByte_ok h1, takeByte_ok h2]
  simp [putDescriptor]

theorem readSize_ok {m : Nibble} {ws rest : List Nibble} {size : ReadLength}
    (h : readSize m ws = .ok (size, rest)) : m = readCode size ∧ ws = rest := by
  simp only [readSize] at h
  split_ifs at h with h0 h1 h2 h3 h4 <;>
    simp only [Except.ok.injEq, Prod.mk.injEq] at h <;> obtain ⟨rfl, rfl⟩ := h <;>
    exact ⟨by assumption, rfl⟩

theorem takeData_ok {m : Nibble} {ws rest : List Nibble} {data : WriteData}
    (h : takeData m ws = .ok (data, rest)) :
    m = writeCode data ∧ ws = putBytes (dataBytes data) ++ rest := by
  simp only [takeData] at h
  split_ifs at h with h0 h1 h2 <;> split at h <;>
    simp only [Except.ok.injEq, Prod.mk.injEq, reduceCtorEq] at h <;> obtain ⟨rfl, rfl⟩ := h <;>
    exact ⟨by assumption, by simp [dataBytes, putBytes]⟩

theorem takeHeader_ok {ws rest : List Nibble} {a : FrameAddr} {code : Nibble}
    (h : takeHeader ws = .ok ((a, code), rest)) :
    ws = Config.idselValue :: (putFrameAddr (wideAddr a) ++ (code :: rest)) := by
  rw [takeHeader, andThen_eq_ok] at h
  obtain ⟨idsel, w1, h1, h⟩ := h
  split_ifs at h with h0
  simp only [andThen_eq_ok] at h
  obtain ⟨a', w2, h2, m, w3, h3, h4⟩ := h
  simp only [Except.ok.injEq, Prod.mk.injEq] at h4
  obtain ⟨⟨rfl, rfl⟩, rfl⟩ := h4
  rw [takeNibble_ok h1, h0, takeFrameAddr_ok h2, takeNibble_ok h3]

end Sys2Proof
end

