-- ==== Sys2Proof/Laws/Outcomes.lean ====
section
/-! SUPPORT. What each operation over the bus can come to, for every state: one lemma per operation
says it all, and one says which outcome the target's answers give. -/

namespace Sys2Proof.Machine

/-! ### Bytes as target slots -/

@[simp] theorem putBytes_length (bs : List Byte) : (putBytes bs).length = 2 * bs.length := by
  induction bs with
  | nil => rfl
  | cons b bs ih => simp [putBytes, ih]; omega

/-- A byte is known from its two nibbles. -/
theorem byte_eq_of_nibbles {b c : Byte} (hlo : loNibble b = loNibble c) (hhi : hiNibble b = hiNibble c) :
    b = c := by
  rw [← byteOf_hi_lo b, ← byteOf_hi_lo c, hlo, hhi]

/-- Bytes are known from their nibbles. -/
theorem putBytes_injective {bs cs : List Byte} (h : putBytes bs = putBytes cs) : bs = cs := by
  induction bs generalizing cs with
  | nil => cases cs with
    | nil => rfl
    | cons c cs => simp [putBytes] at h
  | cons b bs ih => cases cs with
    | nil => simp [putBytes] at h
    | cons c cs =>
      simp only [putBytes, List.cons.injEq] at h
      rw [byte_eq_of_nibbles h.1 h.2.1, ih h.2.2]

/-- The target slots of a read frame determine their parts. -/
theorem readFrameTarget_inj {x r t y x' r' t' y' : Nibble} {bs bs' : List Byte}
    (h : readFrameTarget x r bs t y = readFrameTarget x' r' bs' t' y') :
    x = x' ∧ r = r' ∧ bs = bs' ∧ t = t' ∧ y = y' := by
  simp only [readFrameTarget, List.cons_append, List.nil_append, List.cons.injEq] at h
  obtain ⟨hx, hr, h⟩ := h
  obtain ⟨hb, hty⟩ := List.append_inj' h rfl
  simp only [List.cons.injEq, and_true] at hty
  exact ⟨hx, hr, putBytes_injective hb, hty.1, hty.2⟩

@[simp] theorem readFrameTarget_length (x r : Nibble) (bs : List Byte) (t y : Nibble) :
    (readFrameTarget x r bs t y).length = 4 + 2 * bs.length := by
  simp [readFrameTarget]; omega

/-- What a target answers in `j` slots, it answers in the first `j` of more. -/
theorem draws_take (p : Params) (j k : Nat) (log : List NibbleEvent) (t : Target) (hjk : j ≤ k) :
    (t.draws p j log).1 = (t.draws p k log).1.take j := by
  obtain ⟨m, rfl⟩ := Nat.exists_eq_add_of_le hjk
  rw [draws_add]
  simp

/-- A target that lists its answers gives them. -/
theorem readAnswers_oracle {s : State} {vs rest : List Nibble} (h : s.target = .oracle (vs ++ rest))
    (a : Addr) (n : Nat) : s.readAnswers a n vs (.oracle rest) := by
  rw [State.readAnswers, h, draws_oracle]

theorem writeAnswers_oracle {s : State} {vs rest : List Nibble} (h : s.target = .oracle (vs ++ rest))
    (a : Addr) (bytes : List Byte) : s.writeAnswers a bytes vs (.oracle rest) := by
  rw [State.writeAnswers, h, draws_oracle]

/-- A read cycle runs to its end on the answers of a list. -/
theorem readRuns_oracle {s : State} {x t y : Nibble} {bytes : List Byte} {rest : List Nibble}
    (h : s.target = .oracle (readFrameTarget x 0x0 bytes t y ++ rest)) (a : Addr) :
    readRuns a bytes t s (readDone a bytes x 0x0 t y (.oracle rest) s) :=
  ⟨x, 0x0, y, _, readAnswers_oracle h a _, .inl rfl, rfl⟩

/-- A write cycle runs to its end on the answers of a list. -/
theorem writeRuns_oracle {s : State} {x y : Nibble} {rest : List Nibble}
    (h : s.target = .oracle ([x, 0x0, 0xF, y] ++ rest)) (a : Addr) (bytes : List Byte) :
    writeRuns a bytes s (writeDone a bytes x y (.oracle rest) s) :=
  ⟨x, y, _, writeAnswers_oracle h a _, rfl⟩

/-! ### The first checks -/

/-- The two checks every bus operation makes first (R128, R174, R212). -/
theorem readyChecks_cases (s : State) :
    (s.prepared = false ∧ readyChecks s = .faulted .notPrepared) ∨
    (s.prepared = true ∧ s.desync = true ∧ readyChecks s = .faulted .busDesynced) ∨
    (s.prepared = true ∧ s.desync = false ∧ readyChecks s = .ok () s) := by
  cases hp : s.prepared <;> cases hd : s.desync <;> simp [readyChecks, hp, hd]

/-- Ready is prepared and not desynced (R30, R31). -/
theorem ready_iff (s : State) : s.ready = true ↔ s.prepared = true ∧ s.desync = false := by
  simp [State.ready]

/-! ### The read cycle -/

/-- Everything a read cycle can come to (R128, R130, R131, R201, R202). -/
theorem readCycle_all (a : Addr) (n : Nat) (s : State) :
    (s.prepared = false ∧ readCycle a n s = .faulted .notPrepared) ∨
    (s.prepared = true ∧ s.desync = true ∧ readCycle a n s = .faulted .busDesynced) ∨
    (s.ready = true ∧ sizeCode n .memoryRead = none ∧
      readCycle a n s = .raised (.badBlockLength .memoryRead n) s) ∨
    (s.ready = true ∧ ∃ x r tgt, s.readAnswers a n [x, r] tgt ∧ r ≠ 0x0 ∧ s.diagnostic = false ∧
      1 ≤ n ∧ n ≤ 128 ∧
      readCycle a n s = .raised (.syncError .rsync .memoryRead a r) (readAborted a n x r tgt s)) ∨
    (s.ready = true ∧ ∃ bytes t u, bytes.length = n ∧ 1 ≤ n ∧ n ≤ 128 ∧ readRuns a bytes t s u ∧
      readCycle a n s = .ok (bytes, !(tarExpected t)) u) := by
  rw [ready_iff]
  rcases readyChecks_cases s with ⟨hp, h⟩ | ⟨hp, hd, h⟩ | ⟨hp, hd, h⟩
  · exact .inl ⟨hp, by simp [readCycle, entryChecks, h, Ran.bind]⟩
  · exact .inr (.inl ⟨hp, hd, by simp [readCycle, entryChecks, h, Ran.bind]⟩)
  · rcases hc : sizeCode n .memoryRead with _ | c
    · exact .inr (.inr (.inl ⟨⟨hp, hd⟩, rfl, by
        simp [readCycle, entryChecks, h, Ran.bind, raiseSizeCode, hc]⟩))
    · have hn := sizeCode_range hc
      rcases readCycle_cases a n c s hp hd hc with ⟨x, r, tgt, hdr, hr, hg, h⟩ | ⟨x, r, bytes, t, y, tgt, hlen, hdr, hr, h⟩
      · refine .inr (.inr (.inr (.inl ⟨⟨hp, hd⟩, x, r, tgt, ?_, ?_, hg, hn.1, hn.2, h⟩)))
        · rw [State.readAnswers, codeOf_eq hc]; exact hdr
        · rintro rfl; simp [rsyncAccepted, Config.rsyncOk] at hr
      · refine .inr (.inr (.inr (.inr ⟨⟨hp, hd⟩, bytes, t, _, hlen, hn.1, hn.2,
          ⟨x, r, y, tgt, ?_, ?_, rfl⟩, h⟩)))
        · rw [State.readAnswers, hlen, codeOf_eq hc, readFrameTarget_length, hlen]; exact hdr
        · rwa [rsyncAccepted_iff] at hr

/-- A read cycle whose answers let it run to its end does so (R130). -/
theorem readCycle_of_readRuns {a : Addr} {bytes : List Byte} {t : Nibble} {s u : State} {c : Nibble}
    (hp : s.prepared = true) (hd : s.desync = false) (hc : sizeCode bytes.length .memoryRead = some c)
    (h : readRuns a bytes t s u) : readCycle a bytes.length s = .ok (bytes, !(tarExpected t)) u := by
  obtain ⟨x, r, y, tgt, hans, hr, rfl⟩ := h
  rw [State.readAnswers, codeOf_eq hc, readFrameTarget_length] at hans
  rcases readCycle_cases a bytes.length c s hp hd hc with
    ⟨x', r', tgt', hdr, hr', hg, -⟩ | ⟨x', r', bytes', t', y', tgt', hlen, hdr, -, h⟩
  · have htake := draws_take s.params 2 (4 + 2 * bytes.length)
      (s.nibbles ++ hostEntries (readFrameHost a c)) s.target (by omega)
    rw [hdr, hans] at htake
    simp only [readFrameTarget, List.cons_append, List.take_succ_cons, List.cons.injEq] at htake
    rcases hr with rfl | hr
    · rw [htake.2.1] at hr'; simp [rsyncAccepted, Config.rsyncOk] at hr'
    · simp [hg] at hr
  · rw [hans, Prod.mk.injEq] at hdr
    obtain ⟨h1, rfl⟩ := hdr
    obtain ⟨rfl, rfl, rfl, rfl, rfl⟩ := readFrameTarget_inj h1
    exact h

/-- A read cycle whose RSYNC is fatal ends there (R131, R209). -/
theorem readCycle_of_badSync {a : Addr} {n : Nat} {x r : Nibble} {tgt : Target} {s : State} {c : Nibble}
    (hp : s.prepared = true) (hd : s.desync = false) (hc : sizeCode n .memoryRead = some c)
    (h : s.readAnswers a n [x, r] tgt) (hr : r ≠ 0x0) (hg : s.diagnostic = false) :
    readCycle a n s = .raised (.syncError .rsync .memoryRead a r) (readAborted a n x r tgt s) := by
  rw [State.readAnswers, codeOf_eq hc] at h
  rcases readCycle_cases a n c s hp hd hc with
    ⟨x', r', tgt', hdr, -, -, hrun⟩ | ⟨x', r', bytes', t', y', tgt', hlen, hdr, hok, -⟩
  · rw [show [x, r].length = 2 from rfl, hdr] at h
    simp only [Prod.mk.injEq, List.cons.injEq, and_true] at h
    obtain ⟨⟨rfl, rfl⟩, rfl⟩ := h
    exact hrun
  · have htake := draws_take s.params 2 (4 + 2 * n)
      (s.nibbles ++ hostEntries (readFrameHost a c)) s.target (by omega)
    rw [show [x, r].length = 2 from rfl] at h
    rw [hdr, h] at htake
    simp only [readFrameTarget, List.cons_append, List.take_succ_cons, List.cons.injEq] at htake
    rw [← htake.2.1, hg, rsyncAccepted_iff] at hok
    exact absurd (hok.resolve_right (by decide)) hr

/-! ### The write cycle -/

/-- Everything a write cycle can come to (R128, R135 to R137, R201 to R203). -/
theorem writeCycle_all (a : Addr) (bytes : List Byte) (s : State) :
    (s.prepared = false ∧ writeCycle a bytes s = .faulted .notPrepared) ∨
    (s.prepared = true ∧ s.desync = true ∧ writeCycle a bytes s = .faulted .busDesynced) ∨
    (s.ready = true ∧ sizeCode bytes.length .memoryWrite = none ∧
      writeCycle a bytes s = .raised (.badBlockLength .memoryWrite bytes.length) s) ∨
    (s.ready = true ∧ 1 ≤ bytes.length ∧ bytes.length ≤ 128 ∧ ∃ x r tgt,
      s.writeAnswers a bytes [x, r] tgt ∧ r ≠ 0x0 ∧ writeCycle a bytes s =
        .raised (.syncError .rsync .memoryWrite a r) (writeAborted a bytes [x, r] tgt s)) ∨
    (s.ready = true ∧ 1 ≤ bytes.length ∧ bytes.length ≤ 128 ∧ ∃ x t tgt,
      s.writeAnswers a bytes [x, 0x0, t] tgt ∧ t ≠ 0xF ∧ writeCycle a bytes s =
        .raised (.syncError .tar .memoryWrite a t) (writeAborted a bytes [x, 0x0, t] tgt s)) ∨
    (s.ready = true ∧ 1 ≤ bytes.length ∧ bytes.length ≤ 128 ∧ ∃ u, writeRuns a bytes s u ∧
      writeCycle a bytes s = .ok () u) := by
  rw [ready_iff]
  rcases readyChecks_cases s with ⟨hp, h⟩ | ⟨hp, hd, h⟩ | ⟨hp, hd, h⟩
  · exact .inl ⟨hp, by simp [writeCycle, entryChecks, h, Ran.bind]⟩
  · exact .inr (.inl ⟨hp, hd, by simp [writeCycle, entryChecks, h, Ran.bind]⟩)
  · rcases hc : sizeCode bytes.length .memoryWrite with _ | c
    · exact .inr (.inr (.inl ⟨⟨hp, hd⟩, rfl, by
        simp [writeCycle, entryChecks, h, Ran.bind, raiseSizeCode, hc]⟩))
    · have hn := sizeCode_range hc
      have hcode := codeOf_eq hc
      rcases writeCycle_cases a bytes c s hp hd hc with
        ⟨x, r, tgt, hdr, hr, h⟩ | ⟨x, t, tgt, hdr, ht, h⟩ | ⟨x, y, tgt, hdr, h⟩
      · refine .inr (.inr (.inr (.inl ⟨⟨hp, hd⟩, hn.1, hn.2, x, r, tgt, ?_, hr, h⟩)))
        rw [State.writeAnswers, hcode]; exact hdr
      · refine .inr (.inr (.inr (.inr (.inl ⟨⟨hp, hd⟩, hn.1, hn.2, x, t, tgt, ?_, ht, h⟩))))
        rw [State.writeAnswers, hcode]; exact hdr
      · refine .inr (.inr (.inr (.inr (.inr ⟨⟨hp, hd⟩, hn.1, hn.2, _, ⟨x, y, tgt, ?_, rfl⟩, h⟩))))
        rw [State.writeAnswers, hcode]; exact hdr

/-- A write cycle whose answers let it run to its end does so (R135). -/
theorem writeCycle_of_writeRuns {a : Addr} {bytes : List Byte} {s u : State} {c : Nibble}
    (hp : s.prepared = true) (hd : s.desync = false) (hc : sizeCode bytes.length .memoryWrite = some c)
    (h : writeRuns a bytes s u) : writeCycle a bytes s = .ok () u := by
  obtain ⟨x, y, tgt, hans, rfl⟩ := h
  rw [State.writeAnswers, codeOf_eq hc] at hans
  have htake := fun j => draws_take s.params j 4
    (s.nibbles ++ hostEntries (writeFrameHost a c bytes)) s.target
  rw [show [x, 0x0, 0xF, y].length = 4 from rfl] at hans
  rcases writeCycle_cases a bytes c s hp hd hc with
    ⟨x', r, tgt', hdr, hr, -⟩ | ⟨x', t, tgt', hdr, ht, -⟩ | ⟨x', y', tgt', hdr, h⟩
  · have h2 := htake 2 (by omega)
    rw [hdr, hans] at h2
    simp only [List.take_succ_cons, List.cons.injEq] at h2
    exact absurd h2.2.1 hr
  · have h3 := htake 3 (by omega)
    rw [hdr, hans] at h3
    simp only [List.take_succ_cons, List.cons.injEq] at h3
    exact absurd h3.2.2.1 ht
  · rw [hans] at hdr
    simp only [Prod.mk.injEq, List.cons.injEq, and_true, true_and] at hdr
    obtain ⟨⟨rfl, rfl⟩, rfl⟩ := hdr
    exact h

/-- A write cycle whose RSYNC is not `0x0` ends there (R136, R209). -/
theorem writeCycle_of_badSync {a : Addr} {bytes : List Byte} {x r : Nibble} {tgt : Target} {s : State}
    {c : Nibble} (hp : s.prepared = true) (hd : s.desync = false)
    (hc : sizeCode bytes.length .memoryWrite = some c)
    (h : s.writeAnswers a bytes [x, r] tgt) (hr : r ≠ 0x0) :
    writeCycle a bytes s =
      .raised (.syncError .rsync .memoryWrite a r) (writeAborted a bytes [x, r] tgt s) := by
  rw [State.writeAnswers, codeOf_eq hc, show [x, r].length = 2 from rfl] at h
  have htake := fun k => draws_take s.params 2 k
    (s.nibbles ++ hostEntries (writeFrameHost a c bytes)) s.target
  rcases writeCycle_cases a bytes c s hp hd hc with
    ⟨x', r', tgt', hdr, -, hrun⟩ | ⟨x', t, tgt', hdr, -⟩ | ⟨x', y', tgt', hdr, -⟩
  · rw [hdr] at h
    simp only [Prod.mk.injEq, List.cons.injEq, and_true] at h
    obtain ⟨⟨rfl, rfl⟩, rfl⟩ := h
    exact hrun
  · have h2 := htake 3 (by omega)
    rw [hdr, h] at h2
    simp only [List.take_succ_cons, List.cons.injEq] at h2
    exact absurd h2.2.1 hr
  · have h2 := htake 4 (by omega)
    rw [hdr, h] at h2
    simp only [List.take_succ_cons, List.cons.injEq] at h2
    exact absurd h2.2.1 hr

/-- A write cycle whose trailing turnaround is not `0xF` ends there (R137, R209). -/
theorem writeCycle_of_badTar {a : Addr} {bytes : List Byte} {x t : Nibble} {tgt : Target} {s : State}
    {c : Nibble} (hp : s.prepared = true) (hd : s.desync = false)
    (hc : sizeCode bytes.length .memoryWrite = some c)
    (h : s.writeAnswers a bytes [x, 0x0, t] tgt) (ht : t ≠ 0xF) :
    writeCycle a bytes s =
      .raised (.syncError .tar .memoryWrite a t) (writeAborted a bytes [x, 0x0, t] tgt s) := by
  rw [State.writeAnswers, codeOf_eq hc, show [x, 0x0, t].length = 3 from rfl] at h
  rcases writeCycle_cases a bytes c s hp hd hc with
    ⟨x', r', tgt', hdr, hr, -⟩ | ⟨x', t', tgt', hdr, -, hrun⟩ | ⟨x', y', tgt', hdr, -⟩
  · have h2 := draws_take s.params 2 3
      (s.nibbles ++ hostEntries (writeFrameHost a c bytes)) s.target (by omega)
    rw [hdr, h] at h2
    simp only [List.take_succ_cons, List.cons.injEq] at h2
    exact absurd h2.2.1 hr
  · rw [hdr] at h
    simp only [Prod.mk.injEq, List.cons.injEq, and_true, true_and] at h
    obtain ⟨⟨rfl, rfl⟩, rfl⟩ := h
    exact hrun
  · have h2 := draws_take s.params 3 4
      (s.nibbles ++ hostEntries (writeFrameHost a c bytes)) s.target (by omega)
    rw [hdr, h] at h2
    simp only [List.take_succ_cons, List.cons.injEq] at h2
    exact absurd h2.2.2.1.symm (fun h' => ht h'.symm)

/-- A write cycle whose answers end it in an error ends there (R136, R137, R209). -/
theorem writeCycle_of_writeEndsAt {a : Addr} {bytes : List Byte} {vs : List Nibble} {check : SyncCheck}
    {v : Nibble} {tgt : Target} {s : State} {c : Nibble} (hp : s.prepared = true) (hd : s.desync = false)
    (hc : sizeCode bytes.length .memoryWrite = some c) (h : s.writeAnswers a bytes vs tgt)
    (hv : writeEndsAt vs check v) : writeCycle a bytes s =
      .raised (.syncError check .memoryWrite a v) (writeAborted a bytes vs tgt s) := by
  rcases hv with ⟨x, rfl, rfl, hv⟩ | ⟨x, rfl, rfl, hv⟩
  · exact writeCycle_of_badSync hp hd hc h hv
  · exact writeCycle_of_badTar hp hd hc h hv

/-! ### Well-formed instructions -/

/-- The lengths the size codes are defined on are the supported ones (R58, R126). -/
theorem sizeCode_eq_none_iff (n : Nat) (k : BusCycleKind) :
    sizeCode n k = none ↔ lengthSupported n k = false := by
  cases k <;> simp only [sizeCode, lengthSupported, Config.readLengths, Config.writeLengths] <;>
    split_ifs <;> simp_all

end Sys2Proof.Machine
end

