-- ==== Sys2Proof/Laws/Device.lean ====
section
/-! SUPPORT. What a finished cycle leaves alone, and the operations made of cycles: they run when their
cycles run, and end where a cycle ends. -/

namespace Sys2Proof.Machine

/-! ### What a finished cycle leaves alone -/

/-- The fields no cycle writes, and the flags a finished cycle leaves (R130, R135). -/
structure SameEngine (s t : State) : Prop where
  prepared : t.prepared = s.prepared
  desync : t.desync = s.desync
  diagnostic : t.diagnostic = s.diagnostic
  device : t.device = s.device
  params : t.params = s.params
  calls : t.calls = s.calls
  results : t.results = s.results
  polls : t.polls = s.polls
  reset : t.lines.reset = s.lines.reset
  we : t.lines.we = s.lines.we

theorem SameEngine.refl (s : State) : SameEngine s s := ⟨rfl, rfl, rfl, rfl, rfl, rfl, rfl, rfl, rfl, rfl⟩

theorem SameEngine.trans {s t u : State} (h : SameEngine s t) (k : SameEngine t u) : SameEngine s u :=
  ⟨k.prepared.trans h.prepared, k.desync.trans h.desync, k.diagnostic.trans h.diagnostic,
    k.device.trans h.device, k.params.trans h.params, k.calls.trans h.calls, k.results.trans h.results,
    k.polls.trans h.polls, k.reset.trans h.reset, k.we.trans h.we⟩

theorem SameEngine.ready {s t : State} (h : SameEngine s t) : t.ready = s.ready := by
  simp [State.ready, h.prepared, h.desync]

theorem readRuns_same {a : Addr} {bytes : List Byte} {tar : Nibble} {s t : State}
    (h : readRuns a bytes tar s t) : SameEngine s t := by
  obtain ⟨x, r, y, tgt, -, -, rfl⟩ := h
  exact ⟨rfl, rfl, rfl, rfl, rfl, rfl, rfl, rfl, rfl, rfl⟩

theorem writeRuns_same {a : Addr} {bytes : List Byte} {s t : State} (h : writeRuns a bytes s t) :
    SameEngine s t := by
  obtain ⟨x, y, tgt, -, rfl⟩ := h
  exact ⟨rfl, rfl, rfl, rfl, rfl, rfl, rfl, rfl, rfl, rfl⟩

theorem sequenceRuns_same {ps : List CmdPair} {s t : State} (h : sequenceRuns ps s t) : SameEngine s t := by
  induction ps generalizing s with
  | nil => obtain rfl := h; exact .refl _
  | cons p ps ih =>
    obtain ⟨u, h1, h2⟩ := h
    exact (writeRuns_same h1).trans (ih h2)

theorem statusRuns_same {b : Byte} {s t : State} (h : statusRuns b s t) : SameEngine s t := by
  obtain ⟨u, tar, h1, h2⟩ := h
  exact (writeRuns_same h1).trans (readRuns_same h2)

theorem idRuns_same {m c : Byte} {s t : State} (h : idRuns m c s t) : SameEngine s t := by
  obtain ⟨u, tar, tar', h1, h2⟩ := h
  exact (readRuns_same h1).trans (readRuns_same h2)

/-! ### Operations made of cycles -/

/-- A one-byte read cycle of a ready engine. -/
theorem readCycle_one {a : Addr} {b : Byte} {tar : Nibble} {s t : State} (hr : s.ready = true)
    (h : readRuns a [b] tar s t) : readCycle a 1 s = .ok ([b], !(tarExpected tar)) t :=
  readCycle_of_readRuns ((ready_iff s).1 hr).1 ((ready_iff s).1 hr).2 (c := 0x0) rfl h

/-- A one-byte write cycle of a ready engine. -/
theorem writeCycle_one {a : Addr} {b : Byte} {s t : State} (hr : s.ready = true)
    (h : writeRuns a [b] s t) : writeCycle a [b] s = .ok () t :=
  writeCycle_of_writeRuns ((ready_iff s).1 hr).1 ((ready_iff s).1 hr).2 (c := 0x0) rfl h

/-- The two identification cycles (R169). -/
theorem readDeviceIds_of_idRuns {m c : Byte} {s t : State} (hr : s.ready = true) (h : idRuns m c s t) :
    readDeviceIds s = .ok (m, c) t := by
  obtain ⟨u, tar, tar', h1, h2⟩ := h
  have hu := readRuns_same h1
  simp only [readDeviceIds, readCycle_one hr h1, Ran.bind, hu.params,
    readCycle_one (hu.ready.trans hr) h2]
  rfl

/-- The write cycles of a sequence (R170). -/
theorem runSequence_of_sequenceRuns {ps : List CmdPair} {s t : State} (hr : s.ready = true ∨ ps = [])
    (h : sequenceRuns ps s t) : runSequence ps s = .ok () t := by
  induction ps generalizing s with
  | nil => obtain rfl := h; rfl
  | cons p ps ih =>
    obtain ⟨u, h1, h2⟩ := h
    have hr : s.ready = true := hr.resolve_right (by simp)
    rw [runSequence, writeCycle_one hr h1, Ran.bind]
    exact ih (.inl ((writeRuns_same h1).ready.trans hr)) h2

/-- A sequence is its first part and then the rest. -/
theorem runSequence_append (ps qs : List CmdPair) (s : State) :
    runSequence (ps ++ qs) s = (runSequence ps s).bind fun _ s => runSequence qs s := by
  induction ps generalizing s with
  | nil => rfl
  | cons p ps ih =>
    rw [List.cons_append, runSequence, runSequence]
    cases writeCycle p.addr [p.cmd] s with
    | ok a t => exact ih t
    | raised e t => rfl
    | faulted f => rfl

/-- The status read (R171). -/
theorem readStatusRegister_of_statusRuns {b : Byte} {s t : State} (hr : s.ready = true)
    (h : statusRuns b s t) : readStatusRegister s = .ok b t := by
  obtain ⟨u, tar, h1, h2⟩ := h
  have hu := writeRuns_same h1
  simp only [readStatusRegister, writeCycle_one hr h1, Ran.bind, hu.params,
    readCycle_one (hu.ready.trans hr) h2]
  rfl

/-- `findDevice` is a search for the first entry with both bytes (R168). -/
theorem findDevice_eq_find (m c : Byte) (ds : List DeviceDescriptor) :
    findDevice m c ds = ds.find? (fun d => d.mfr == m && d.chip == c) := by
  induction ds with
  | nil => rfl
  | cons d ds ih =>
    by_cases h : d.mfr = m ∧ d.chip = c
    · simp [findDevice, h]
    · rw [findDevice, if_neg h, ih, List.find?_cons_of_neg (by simpa using h)]

/-- What `findDevice` finds is an entry of the registry. -/
theorem findDevice_mem {m c : Byte} {ds : List DeviceDescriptor} {d : DeviceDescriptor}
    (h : findDevice m c ds = some d) : d ∈ ds := by
  rw [findDevice_eq_find] at h
  exact List.mem_of_find?_eq_some h

/-! ### The outcomes the caller has

A cycle reads and writes no outcome: from the state after one line was recorded it runs as it runs without
the record. -/

theorem readRuns_record {a : Addr} {bytes : List Byte} {tar : Nibble} {s t : State} (o : OpOutcome)
    (h : readRuns a bytes tar s t) :
    readRuns a bytes tar (record o s) { t with results := s.results ++ [o], polls := none } := by
  obtain ⟨x, r, y, tgt, ha, hr, rfl⟩ := h
  exact ⟨x, r, y, tgt, ha, hr, rfl⟩

theorem writeRuns_record {a : Addr} {bytes : List Byte} {s t : State} (o : OpOutcome)
    (h : writeRuns a bytes s t) :
    writeRuns a bytes (record o s) { t with results := s.results ++ [o], polls := none } := by
  obtain ⟨x, y, tgt, ha, rfl⟩ := h
  exact ⟨x, y, tgt, ha, rfl⟩

theorem ready_record (o : OpOutcome) (s : State) : (record o s).ready = s.ready := rfl

/-! ### An ill-formed instruction -/

/-- An ill-formed instruction of a ready engine raises `BadBlockLength` and leaves only that (R126, R127,
R201). -/
theorem exec_of_illFormed {i : Instr} {s : State} (hr : s.ready = true) (hi : i.wellFormed = false) :
    ∃ k n, exec i s = .next (record (.raised (.badBlockLength k n)) s) := by
  have hs := (ready_iff s).1 hr
  have hread : ∀ a n, lengthSupported n .memoryRead = false →
      readCycle a n s = .raised (.badBlockLength .memoryRead n) s := fun a n h => by
    simp [readCycle, entryChecks, readyChecks, Ran.bind, raiseSizeCode, hs, (sizeCode_eq_none_iff n _).2 h]
  have hwrite : ∀ (a : Addr) (bs : List Byte), lengthSupported bs.length .memoryWrite = false →
      writeCycle a bs s = .raised (.badBlockLength .memoryWrite bs.length) s := fun a bs h => by
    simp [writeCycle, entryChecks, readyChecks, Ran.bind, raiseSizeCode, hs, (sizeCode_eq_none_iff _ _).2 h]
  cases i <;> simp only [Instr.wellFormed, Bool.true_eq_false] at hi
  case sizeCode n k =>
    exact ⟨k, n, by simp [exec, execSizeCode, raiseSizeCode, (sizeCode_eq_none_iff n k).2 hi, finish]⟩
  case readCycle a n => exact ⟨.memoryRead, n, by simp [exec, execReadCycle, hread a n hi, finish]⟩
  case writeCycle a bs => exact ⟨.memoryWrite, bs.length, by simp [exec, execWriteCycle, hwrite a bs hi, finish]⟩
  case readBlock a n =>
    exact ⟨.memoryRead, n, by simp [exec, execReadBlock, readBlock, hread a n hi, finish, Ran.bind]⟩
  case writeBlock a bs => exact ⟨.memoryWrite, bs.length, by simp [exec, execWriteBlock, writeBlock, hwrite a bs hi, finish]⟩

end Sys2Proof.Machine
end

