-- ==== Sys2Proof/Laws/Keeps.lean ====
section
/-! SUPPORT. One induction over what an operation can do: a property that each of an operation's parts
keeps (its cycles, its writes to the device and the poll counter, the recording of its outcome), the
operation keeps. -/

namespace Sys2Proof.Machine

/-- Every state an operation can go on from has the property. -/
def Ran.All {α : Type} (P : State → Prop) : Ran α → Prop
  | .ok _ s => P s
  | .raised _ s => P s
  | .faulted _ => True

theorem Ran.All.bind {α β : Type} {P : State → Prop} {r : Ran α} {k : α → State → Ran β} (h : r.All P)
    (hk : ∀ a s, P s → (k a s).All P) : (r.bind k).All P := by
  cases r with
  | ok a s => exact hk a s h
  | raised e s => exact h
  | faulted f => trivial

/-- The operations that can issue a write cycle. -/
def writesTarget : Instr → Bool
  | .writeCycle _ _ => true
  | .executeUnlockSequence _ _ => true
  | .readStatusRegister => true
  | .waitForWriteComplete => true
  | .unlockForWrite => true
  | .unlockForRead => true
  | .writeBlock _ _ => true
  | .writeFrame _ _ => true
  | _ => false

/-- A property kept by every part of one operation. -/
structure KeptBy (i : Instr) (P : State → Prop) : Prop where
  read : readsTarget i = true → ∀ a n s, P s → (readCycle a n s).All P
  write : writesTarget i = true → ∀ a bs s, P s → (writeCycle a bs s).All P
  device : i = .identify → ∀ s d, (d = none ∨ ∃ e ∈ s.params.registry, d = some e) → P s → P (setDevice d s)
  poll : i = .waitForWriteComplete → ∀ n s, P s → P (setPolls n (delay .poll s))
  record : ∀ o s, P s → P (record o s)
  setLinesOutput : i = .setLinesOutput → ∀ s, P s → P (setLinesOutput s)
  setLinesInput : ∀ z, i = .setLinesInput z → ∀ s, P s → P (setLinesInput z s)
  assertFrame : ∀ a, i = .assertFrame a → ∀ s, P s → P (assertFrame a s)
  setClock : ∀ l, i = .setClock l → ∀ s, P s → P (setClock l s)
  busInit : i = .busInit → ∀ s, P s → P (busInit s)
  writeNibble : ∀ v f, i = .writeNibble v f → ∀ s, P s → P (writeNibble v f s)
  readNibble : i = .readNibble → ∀ s, P s → P (readNibble s)

theorem finish_next {α : Type} {P : State → Prop} {w : α → OpValue} {r : Ran α} {t : State}
    (hrec : ∀ o s, P s → P (record o s)) (hr : r.All P) (h : finish w r = .next t) : P t := by
  cases r with
  | ok a s => obtain rfl := Host.Outcome.next.inj h; exact hrec _ _ hr
  | raised e s => obtain rfl := Host.Outcome.next.inj h; exact hrec _ _ hr
  | faulted f => cases h

theorem readDeviceIds_all {P : State → Prop} (hread : ∀ a n s, P s → (readCycle a n s).All P) (s : State)
    (hs : P s) : (readDeviceIds s).All P :=
  (hread _ _ _ hs).bind fun _ s h => (hread _ _ s h).bind fun _ _ h => h

theorem runSequence_all {P : State → Prop} (hwrite : ∀ a bs s, P s → (writeCycle a bs s).All P)
    (ps : List CmdPair) (s : State) (hs : P s) : (runSequence ps s).All P := by
  induction ps generalizing s with
  | nil => exact hs
  | cons p ps ih => exact (hwrite _ _ _ hs).bind fun _ s h => ih s h

theorem readStatusRegister_all {P : State → Prop} (hread : ∀ a n s, P s → (readCycle a n s).All P)
    (hwrite : ∀ a bs s, P s → (writeCycle a bs s).All P) (s : State) (hs : P s) :
    (readStatusRegister s).All P :=
  (hwrite _ _ _ hs).bind fun _ s h => (hread _ _ s h).bind fun _ _ h => h

theorem readyChecks_all {P : State → Prop} (s : State) (hs : P s) : (readyChecks s).All P := by
  unfold readyChecks
  split
  · trivial
  · split
    · trivial
    · exact hs

theorem unlock_all {P : State → Prop} (hwrite : ∀ a bs s, P s → (writeCycle a bs s).All P) (f : Bool)
    (s : State) (hs : P s) : (unlock f s).All P := by
  refine (readyChecks_all s hs).bind fun _ s h => ?_
  split
  · exact h
  · exact runSequence_all hwrite _ s h

theorem identify_all {P : State → Prop} (hread : ∀ a n s, P s → (readCycle a n s).All P)
    (hdev : ∀ s d, (d = none ∨ ∃ e ∈ s.params.registry, d = some e) → P s → P (setDevice d s)) (s : State)
    (hs : P s) : (identify s).All P := by
  refine (readDeviceIds_all hread s hs).bind fun ids s h => hdev s _ ?_ h
  cases hf : findDevice ids.1 ids.2 s.params.registry with
  | none => exact .inl rfl
  | some e => exact .inr ⟨e, findDevice_mem hf, rfl⟩

/-- What each part of an operation keeps, the operation keeps. -/
theorem exec_keeps {i : Instr} {P : State → Prop} (k : KeptBy i P) {s t : State} (hs : P s)
    (h : exec i s = .next t) : P t := by
  cases i with
  | setLinesOutput => obtain rfl := Host.Outcome.next.inj h; exact k.record _ _ (k.setLinesOutput rfl s hs)
  | setLinesInput z => obtain rfl := Host.Outcome.next.inj h; exact k.record _ _ (k.setLinesInput z rfl s hs)
  | assertFrame a => obtain rfl := Host.Outcome.next.inj h; exact k.record _ _ (k.assertFrame a rfl s hs)
  | setClock l => obtain rfl := Host.Outcome.next.inj h; exact k.record _ _ (k.setClock l rfl s hs)
  | busInit => obtain rfl := Host.Outcome.next.inj h; exact k.record _ _ (k.busInit rfl s hs)
  | writeNibble v f => obtain rfl := Host.Outcome.next.inj h; exact k.record _ _ (k.writeNibble v f rfl s hs)
  | readNibble => obtain rfl := Host.Outcome.next.inj h; exact k.record _ _ (k.readNibble rfl s hs)
  | sizeCode n kind =>
    refine finish_next k.record ?_ h
    unfold raiseSizeCode
    split <;> exact hs
  | readCycle a n => exact finish_next k.record (k.read rfl a n s hs) h
  | writeCycle a bs => exact finish_next k.record (k.write rfl a bs s hs) h
  | findDevice m c => obtain rfl := Host.Outcome.next.inj h; exact k.record _ _ (hs)
  | readDeviceIds => exact finish_next k.record (readDeviceIds_all (k.read rfl) s hs) h
  | executeUnlockSequence d f => exact finish_next k.record (runSequence_all (k.write rfl) _ s hs) h
  | readStatusRegister =>
    exact finish_next k.record (readStatusRegister_all (k.read rfl) (k.write rfl) s hs) h
  | waitForWriteComplete =>
    have hst := readStatusRegister_all (k.read rfl) (k.write rfl) s hs
    simp only [exec, execWaitForWriteComplete] at h
    split at h
    · rename_i st u hu
      rw [hu] at hst
      simp only [afterPoll] at h
      split at h
      · obtain rfl := Host.Outcome.next.inj h; exact k.record _ _ (hst)
      · split at h
        · obtain rfl := Host.Outcome.next.inj h; exact k.record _ _ (hst)
        · obtain rfl := Host.Outcome.next.inj h; exact k.poll rfl _ _ hst
    · rename_i e u hu
      rw [hu] at hst
      obtain rfl := Host.Outcome.next.inj h; exact k.record _ _ (hst)
    · cases h
  | identify => exact finish_next k.record (identify_all (k.read rfl) (k.device rfl) s hs) h
  | unlockForWrite => exact finish_next k.record (unlock_all (k.write rfl) true s hs) h
  | unlockForRead => exact finish_next k.record (unlock_all (k.write rfl) false s hs) h
  | readBlock a n =>
    refine finish_next k.record (Ran.All.bind (k.read rfl a n s hs) fun b u hu => ?_) h
    exact hu
  | writeBlock a bs => exact finish_next k.record (k.write rfl a bs s hs) h
  | readFrame a size => exact finish_next k.record (k.read rfl _ _ s hs) h
  | writeFrame a data => exact finish_next k.record (k.write rfl _ _ s hs) h

/-- A property of the states a read cycle can leave, shown for each of its ends. -/
theorem readCycle_keeps {P : State → Prop} {a : Addr} {n : Nat} {s : State} (hs : P s)
    (haborted : ∀ x r tgt, s.ready = true → s.readAnswers a n [x, r] tgt → r ≠ 0x0 →
      s.diagnostic = false → 1 ≤ n → n ≤ 128 → P (readAborted a n x r tgt s))
    (hdone : ∀ bytes t u, s.ready = true → bytes.length = n → 1 ≤ n → n ≤ 128 → readRuns a bytes t s u →
      P u) : (readCycle a n s).All P := by
  rcases readCycle_all a n s with ⟨-, h⟩ | ⟨-, -, h⟩ | ⟨-, -, h⟩ | ⟨hr, x, r, tgt, ha, h0, hg, h1, h2, h⟩ |
    ⟨hr, bytes, t, u, hl, h1, h2, hu, h⟩ <;> rw [h]
  · trivial
  · trivial
  · exact hs
  · exact haborted x r tgt hr ha h0 hg h1 h2
  · exact hdone bytes t u hr hl h1 h2 hu

/-- A property of the states a write cycle can leave, shown for each of its ends. -/
theorem writeCycle_keeps {P : State → Prop} {a : Addr} {bytes : List Byte} {s : State} (hs : P s)
    (haborted : ∀ vs tgt, s.ready = true → s.writeAnswers a bytes vs tgt →
      (∃ x r, vs = [x, r] ∧ r ≠ 0x0) ∨ (∃ x t, vs = [x, 0x0, t] ∧ t ≠ 0xF) →
      1 ≤ bytes.length → bytes.length ≤ 128 → P (writeAborted a bytes vs tgt s))
    (hdone : ∀ u, s.ready = true → 1 ≤ bytes.length → bytes.length ≤ 128 → writeRuns a bytes s u → P u) :
    (writeCycle a bytes s).All P := by
  rcases writeCycle_all a bytes s with ⟨-, h⟩ | ⟨-, -, h⟩ | ⟨-, -, h⟩ | ⟨hr, h1, h2, x, r, tgt, ha, h0, h⟩ |
    ⟨hr, h1, h2, x, t, tgt, ha, h0, h⟩ | ⟨hr, h1, h2, u, hu, h⟩ <;> rw [h]
  · trivial
  · trivial
  · exact hs
  · exact haborted _ tgt hr ha (.inl ⟨x, r, rfl, h0⟩) h1 h2
  · exact haborted _ tgt hr ha (.inr ⟨x, t, rfl, h0⟩) h1 h2
  · exact hdone u hr h1 h2 hu

end Sys2Proof.Machine
end

