-- ==== Sys2Proof/Laws/Memory.lean ====
section
/-! SUPPORT. The reference target's memory: reading back what was written, leaving the rest alone, and
keeping the canonical form. -/

namespace Sys2Proof.Machine

/-- Reading after a write: the byte written at its address, the byte that was there elsewhere. -/
theorem Memory.readNat_writeNat (m : Memory) (a : Nat) (b : Byte) (x : Nat)
    (h : m.Pairwise (fun c d => c.1 < d.1)) :
    (m.writeNat a b).readNat x = if x = a then b else m.readNat x := by
  induction m with
  | nil =>
    by_cases hb : b = Memory.unlisted <;> by_cases hx : x = a <;>
      simp [Memory.writeNat, Memory.readNat, hb, hx, eq_comm (a := a)]
  | cons c m ih =>
    obtain ⟨k, v⟩ := c
    have hm := (List.pairwise_cons.1 h).2
    have hlt : ∀ c ∈ m, k < c.1 := fun c hc => (List.pairwise_cons.1 h).1 c hc
    have hnone : ∀ y, (∀ c ∈ m, y < c.1) → Memory.readNat m y = Memory.unlisted := by
      intro y hy
      clear ih h hm hlt
      induction m with
      | nil => rfl
      | cons c m ihm =>
        have h1 := hy c (by simp)
        simp only [Memory.readNat]
        rw [if_neg (by omega), ihm (fun d hd => hy d (by simp [hd]))]
    simp only [Memory.writeNat]
    split
    · rename_i hak
      split
      · rename_i hb
        by_cases hx : x = a
        · subst hx
          simp only [Memory.readNat, if_true, hb]
          rw [if_neg (by omega), hnone x (fun c hc => lt_trans hak (hlt c hc))]
        · simp [hx]
      · by_cases hx : x = a
        · simp [Memory.readNat, hx]
        · simp [Memory.readNat, hx, Ne.symm hx]
    · split
      · rename_i hak
        subst hak
        split
        · rename_i hb
          by_cases hx : x = a
          · subst hx; simp [hb, hnone x hlt]
          · simp [Memory.readNat, hx, Ne.symm hx]
        · by_cases hx : x = a
          · simp [Memory.readNat, hx]
          · simp [Memory.readNat, hx, Ne.symm hx]
      · rename_i h1 h2
        simp only [Memory.readNat, ih hm]
        by_cases hk : k = x
        · subst hk; simp [Ne.symm h2]
        · simp [hk]

/-- Every cell of a written memory was there or is the one written. -/
theorem Memory.mem_writeNat {m : Memory} {a : Nat} {b : Byte} {c : Host.Cell}
    (h : c ∈ m.writeNat a b) : c ∈ m ∨ (c = (a, b) ∧ b ≠ Memory.unlisted) := by
  induction m with
  | nil =>
    simp only [Memory.writeNat] at h
    split at h
    · simp at h
    · rename_i hb; exact .inr ⟨by simpa using h, hb⟩
  | cons d m ih =>
    obtain ⟨k, v⟩ := d
    simp only [Memory.writeNat] at h
    split at h
    · split at h
      · exact .inl h
      · rename_i hb
        rcases List.mem_cons.1 h with h | h
        · exact .inr ⟨h, hb⟩
        · exact .inl h
    · split at h
      · split at h
        · exact .inl (List.mem_cons_of_mem _ h)
        · rename_i hb
          rcases List.mem_cons.1 h with h | h
          · exact .inr ⟨h, hb⟩
          · exact .inl (List.mem_cons_of_mem _ h)
      · rcases List.mem_cons.1 h with h | h
        · exact .inl (by simp [h])
        · rcases ih h with h | h
          · exact .inl (List.mem_cons_of_mem _ h)
          · exact .inr h

/-- A write keeps the addresses strictly rising. -/
theorem Memory.pairwise_writeNat {m : Memory} (h : m.Pairwise (fun c d => c.1 < d.1)) (a : Nat) (b : Byte) :
    (m.writeNat a b).Pairwise (fun c d => c.1 < d.1) := by
  induction m with
  | nil => simp only [Memory.writeNat]; split <;> simp
  | cons c m ih =>
    obtain ⟨k, v⟩ := c
    obtain ⟨hlt, hm⟩ := List.pairwise_cons.1 h
    simp only [Memory.writeNat]
    split
    · rename_i hak
      split
      · exact h
      · refine List.pairwise_cons.2 ⟨fun c hc => ?_, h⟩
        rcases List.mem_cons.1 hc with rfl | hc
        · exact hak
        · exact lt_trans hak (hlt c hc)
    · split
      · rename_i hak
        subst hak
        split
        · exact hm
        · exact List.pairwise_cons.2 ⟨hlt, hm⟩
      · rename_i h1 h2
        refine List.pairwise_cons.2 ⟨fun c hc => ?_, ih hm⟩
        rcases Memory.mem_writeNat hc with hc | ⟨rfl, -⟩
        · exact hlt c hc
        · simp only; omega

/-- A write keeps the canonical form. -/
theorem Memory.wf_write {m : Memory} (h : m.wf) (x : FrameAddr) (b : Byte) : (m.write x b).wf := by
  refine ⟨Memory.pairwise_writeNat h.1 _ _, fun c hc => ?_⟩
  rcases Memory.mem_writeNat hc with hc | ⟨rfl, hb⟩
  · exact h.2 c hc
  · exact ⟨hb, x.isLt⟩

/-- Writing several bytes keeps the canonical form. -/
theorem Memory.wf_writeList {m : Memory} (h : m.wf) (a : FrameAddr) (bs : List Byte) :
    (m.writeList a bs).wf := by
  induction bs generalizing m a with
  | nil => exact h
  | cons b bs ih => exact ih (Memory.wf_write h a b) (a + 1)

/-- The empty memory is canonical. -/
theorem Memory.wf_nil : Memory.wf [] := ⟨List.Pairwise.nil, by simp⟩

/-- Reading after a write, by 28-bit addresses (R69). -/
theorem Memory.read_write {m : Memory} (h : m.Pairwise (fun c d => c.1 < d.1)) (a : FrameAddr) (b : Byte)
    (x : FrameAddr) : (m.write a b).read x = if x = a then b else m.read x := by
  simp only [Memory.read, Memory.write, Memory.readNat_writeNat m _ _ _ h]
  by_cases hx : x = a
  · simp [hx]
  · rw [if_neg (fun h => hx (BitVec.eq_of_toNat_eq h)), if_neg hx]

/-- An address none of the bytes goes to reads as before. -/
theorem Memory.read_writeList_other {m : Memory} (h : m.Pairwise (fun c d => c.1 < d.1)) (a : FrameAddr)
    (bs : List Byte) (x : FrameAddr)
    (hx : ∀ k < bs.length, x ≠ a + BitVec.ofNat 28 k) : (m.writeList a bs).read x = m.read x := by
  induction bs generalizing m a with
  | nil => rfl
  | cons b bs ih =>
    rw [Memory.writeList, ih (m := m.write a b) (Memory.pairwise_writeNat h _ _), Memory.read_write h,
      if_neg (by simpa using hx 0 (by simp))]
    intro k hk
    have := hx (k + 1) (by simpa using hk)
    rwa [Nat.add_comm, BitVec.ofNat_add, ← BitVec.add_assoc] at this

/-- Byte i of a write is read back at `a + i` (R69), where the bytes do not wrap round onto themselves. -/
theorem Memory.read_writeList {m : Memory} (h : m.Pairwise (fun c d => c.1 < d.1)) (a : FrameAddr)
    (bs : List Byte) (hlen : bs.length ≤ 2 ^ 28) (k : Nat) (hk : k < bs.length) :
    (m.writeList a bs).read (a + BitVec.ofNat 28 k) = bs.getD k 0x00 := by
  induction bs generalizing m a k with
  | nil => simp at hk
  | cons b bs ih =>
    rw [Memory.writeList]
    have hp : (m.write a b).Pairwise (fun c d => c.1 < d.1) := Memory.pairwise_writeNat h _ _
    cases k with
    | zero =>
      rw [Memory.read_writeList_other hp]
      · simp [Memory.read_write h]
      · intro j hj heq
        have h1 : (BitVec.ofNat 28 0) = 1#28 + BitVec.ofNat 28 j := by
          apply (BitVec.add_right_inj a).1
          rw [heq, BitVec.add_assoc]; rfl
        have h2 := congrArg BitVec.toNat h1
        simp only [List.length_cons] at hlen
        rw [BitVec.toNat_add] at h2
        simp only [BitVec.toNat_ofNat] at h2
        omega
    | succ k =>
      have := ih hp (a + 1) (by simp only [List.length_cons] at hlen; omega) k (by simpa using hk)
      rw [Nat.add_comm k 1, BitVec.ofNat_add, ← BitVec.add_assoc]
      simpa [Nat.add_comm] using this

end Sys2Proof.Machine
end

