-- ==== Sys2Proof/Laws/Trace.lean ====
section
/-! SUPPORT. Reading the logs back: what the events of a slot and of a cycle do to the lines, which delays
and samples they hold, and how many clocks their entries are. -/

namespace Sys2Proof.Machine

/-! ### Logs one after another -/

@[simp] theorem replay_nil (ls : Lines) : replay ls [] = ls := rfl

@[simp] theorem replay_cons (ls : Lines) (e : LineEvent) (es : List LineEvent) :
    replay ls (e :: es) = replay (eventLines ls e) es := rfl

@[simp] theorem replay_append (ls : Lines) (es fs : List LineEvent) :
    replay ls (es ++ fs) = replay (replay ls es) fs := by
  induction es generalizing ls with
  | nil => rfl
  | cons e es ih => exact ih _

@[simp] theorem countWaits_append (t : DelayName) (es fs : List LineEvent) :
    countWaits t (es ++ fs) = countWaits t es + countWaits t fs := List.count_append

@[simp] theorem countWaits_nil (t : DelayName) : countWaits t [] = 0 := rfl

@[simp] theorem hostSlots_append (es fs : List NibbleEvent) :
    hostSlots (es ++ fs) = hostSlots es ++ hostSlots fs := by
  induction es with
  | nil => rfl
  | cons e es ih => cases e <;> simp [hostSlots, ih]

@[simp] theorem targetSlots_append (es fs : List NibbleEvent) :
    targetSlots (es ++ fs) = targetSlots es ++ targetSlots fs := by
  induction es with
  | nil => rfl
  | cons e es ih => cases e <;> simp [targetSlots, ih]

@[simp] theorem hostClocks_append (es fs : List NibbleEvent) :
    hostClocks (es ++ fs) = hostClocks es + hostClocks fs := by simp [hostClocks]

@[simp] theorem targetClocks_append (es fs : List NibbleEvent) :
    targetClocks (es ++ fs) = targetClocks es + targetClocks fs := by simp [targetClocks]

@[simp] theorem sampledLevels_append (es fs : List LineEvent) :
    sampledLevels (es ++ fs) = sampledLevels es ++ sampledLevels fs := by
  induction es with
  | nil => rfl
  | cons e es ih => cases e <;> simp [sampledLevels, ih]

@[simp] theorem answerLevels_append (es fs : List NibbleEvent) :
    answerLevels (es ++ fs) = answerLevels es ++ answerLevels fs := by
  induction es with
  | nil => rfl
  | cons e es ih => cases e <;> simp [answerLevels, ih]

/-- Some events, and then others on the lines the first leave. -/
@[simp] theorem handshakeKept_append (ls : Lines) (es fs : List LineEvent) :
    handshakeKept ls (es ++ fs) = (handshakeKept ls es && handshakeKept (replay ls es) fs) := by
  induction es generalizing ls with
  | nil => rfl
  | cons e es ih => cases e <;> simp [handshakeKept, ih, Bool.and_assoc, eventLines]

/-! ### Entries of host slots and of target slots -/

/-- Host slots only. -/
def AllHost (es : List NibbleEvent) : Prop := ∀ e ∈ es, ∃ v f, e = .host v f

theorem allHost_hostEntries (vs : List Nibble) : AllHost (hostEntries vs) := by
  cases vs with
  | nil => intro e he; cases he
  | cons v vs =>
    intro e he
    simp only [hostEntries, List.mem_cons, List.mem_map] at he
    rcases he with rfl | ⟨w, -, rfl⟩ <;> exact ⟨_, _, rfl⟩

/-- As many slots as nibbles. -/
@[simp] theorem hostEntries_length (vs : List Nibble) : (hostEntries vs).length = vs.length := by
  cases vs <;> simp [hostEntries]

/-- The nibbles of a frame's host slots. -/
@[simp] theorem hostSlots_hostEntries (vs : List Nibble) : hostSlots (hostEntries vs) = vs := by
  cases vs with
  | nil => rfl
  | cons v vs =>
    suffices h : hostSlots (vs.map fun w => .host w false) = vs by simp [hostEntries, hostSlots, h]
    induction vs with
    | nil => rfl
    | cons w vs ih => simp [hostSlots, ih]

@[simp] theorem hostSlots_targets (vs : List Nibble) : hostSlots (vs.map .target) = [] := by
  induction vs with
  | nil => rfl
  | cons v vs ih => simpa [hostSlots] using ih

@[simp] theorem targetSlots_targets (vs : List Nibble) : targetSlots (vs.map .target) = vs := by
  induction vs with
  | nil => rfl
  | cons v vs ih => simpa [targetSlots] using ih

theorem AllHost.targetSlots {es : List NibbleEvent} (h : AllHost es) : targetSlots es = [] := by
  induction es with
  | nil => rfl
  | cons e es ih =>
    obtain ⟨v, f, rfl⟩ := h e List.mem_cons_self
    exact ih fun x hx => h x (List.mem_cons_of_mem _ hx)

theorem AllHost.answerLevels {es : List NibbleEvent} (h : AllHost es) : answerLevels es = [] := by
  induction es with
  | nil => rfl
  | cons e es ih =>
    obtain ⟨v, f, rfl⟩ := h e List.mem_cons_self
    exact ih fun x hx => h x (List.mem_cons_of_mem _ hx)

@[simp] theorem targetSlots_hostEntries (vs : List Nibble) : targetSlots (hostEntries vs) = [] :=
  (allHost_hostEntries vs).targetSlots

@[simp] theorem answerLevels_hostEntries (vs : List Nibble) : answerLevels (hostEntries vs) = [] :=
  (allHost_hostEntries vs).answerLevels

@[simp] theorem hostClocks_hostEntries (vs : List Nibble) : hostClocks (hostEntries vs) = vs.length := by
  simp [hostClocks]

@[simp] theorem targetClocks_hostEntries (vs : List Nibble) : targetClocks (hostEntries vs) = 0 := by
  simp [targetClocks]

@[simp] theorem hostClocks_targets (vs : List Nibble) : hostClocks (vs.map .target) = 0 := by
  simp [hostClocks]

@[simp] theorem targetClocks_targets (vs : List Nibble) : targetClocks (vs.map .target) = vs.length := by
  simp [targetClocks]

/-! ### The events of one slot -/

/-- A host slot leaves the lines as R115 says. -/
@[simp] theorem replay_hostSlot (ls : Lines) (v : Nibble) (f : Bool) :
    replay ls (hostSlotEvents v f) = hostSlotLines v f ls := rfl

/-- A target slot leaves LCLK Low (R118). -/
@[simp] theorem replay_targetSlot (ls : Lines) (v : Nibble) :
    replay ls (targetSlotEvents v) = targetSlotLines ls := rfl

theorem replay_outputEvents (ls : Lines) : replay ls outputEvents =
    { ls with
      lad0 := { ls.lad0 with dir := .set .output }, lad1 := { ls.lad1 with dir := .set .output }
      lad2 := { ls.lad2 with dir := .set .output }, lad3 := { ls.lad3 with dir := .set .output } } := rfl

theorem replay_inputEvents (ls : Lines) (z : Bool) : replay ls (inputEvents z) =
    { ls with
      lad0 := ⟨.set .input, if z then .set .low else ls.lad0.lvl⟩
      lad1 := ⟨.set .input, if z then .set .low else ls.lad1.lvl⟩
      lad2 := ⟨.set .input, if z then .set .low else ls.lad2.lvl⟩
      lad3 := ⟨.set .input, if z then .set .low else ls.lad3.lvl⟩ } := by cases z <;> rfl

/-- Host slots end with the lines of their last one. -/
theorem replay_hosts (ls : Lines) {es : List NibbleEvent} (h : AllHost es) (v : Nibble) (f : Bool) :
    replay ls ((es ++ [NibbleEvent.host v f]).flatMap slotEvents) = hostSlotLines v f ls := by
  induction es generalizing ls with
  | nil => simp [slotEvents]
  | cons e es ih =>
    obtain ⟨w, g, rfl⟩ := h e List.mem_cons_self
    rw [List.cons_append, List.flatMap_cons, replay_append,
      ih _ fun x hx => h x (List.mem_cons_of_mem _ hx)]
    simp [slotEvents]

/-- Target slots change nothing while LCLK is Low. -/
theorem replay_targets {ls : Lines} (hlow : targetSlotLines ls = ls) (vs : List Nibble) :
    replay ls (vs.flatMap targetSlotEvents) = ls := by
  induction vs with
  | nil => rfl
  | cons v vs ih => simp [hlow, ih]

/-- The lines a cycle leaves, from its events alone (R134, R138, R209). -/
theorem replay_cycleEvents (ls : Lines) (z : Bool) {es : List NibbleEvent} (h : AllHost es)
    (vs : List Nibble) : replay ls (cycleEvents z (es ++ [NibbleEvent.host 0xF false]) vs) =
      linesAfterCycle (if z then .low else .high) ls := by
  simp only [cycleEvents, replay_append, replay_outputEvents, replay_hosts _ h, replay_inputEvents]
  rw [replay_targets (by cases z <;> rfl)]
  cases z <;> rfl

/-- The host slots of a frame end with the host half of the turnaround (R79). -/
theorem hostEntries_concat {vs : List Nibble} (h : vs ≠ []) (w : Nibble) :
    hostEntries (vs ++ [w]) = hostEntries vs ++ [.host w false] := by
  cases vs with
  | nil => exact absurd rfl h
  | cons v vs => simp [hostEntries]

theorem replay_readFrame (ls : Lines) (z : Bool) (a : Addr) (c : Nibble) (vs : List Nibble) :
    replay ls (cycleEvents z (hostEntries (readFrameHost a c)) vs) =
      linesAfterCycle (if z then .low else .high) ls := by
  rw [readFrameHost, hostEntries_concat (by simp [putHeader])]
  exact replay_cycleEvents ls z (allHost_hostEntries _) vs

theorem replay_writeFrame (ls : Lines) (z : Bool) (a : Addr) (c : Nibble) (bs : List Byte)
    (vs : List Nibble) : replay ls (cycleEvents z (hostEntries (writeFrameHost a c bs)) vs) =
      linesAfterCycle (if z then .low else .high) ls := by
  rw [writeFrameHost, hostEntries_concat (by simp [putHeader])]
  exact replay_cycleEvents ls z (allHost_hostEntries _) vs

/-! ### Delays and samples of a cycle -/

theorem countWaits_hosts (t : DelayName) {es : List NibbleEvent} (h : AllHost es) :
    countWaits t (es.flatMap slotEvents) = if t = .wSettle then 2 * es.length else 0 := by
  induction es with
  | nil => simp
  | cons e es ih =>
    obtain ⟨v, f, rfl⟩ := h e List.mem_cons_self
    rw [List.flatMap_cons, countWaits_append, ih fun x hx => h x (List.mem_cons_of_mem _ hx)]
    cases t <;> simp [slotEvents, hostSlotEvents, countWaits]
    omega

theorem countWaits_targets (t : DelayName) (vs : List Nibble) :
    countWaits t (vs.flatMap targetSlotEvents) = if t = .rSettle then 2 * vs.length else 0 := by
  induction vs with
  | nil => simp
  | cons v vs ih =>
    rw [List.flatMap_cons, countWaits_append, ih]
    cases t <;> simp [targetSlotEvents, countWaits]
    omega

/-- Two holds per host slot, two settle delays per target slot, no other delay (R245). -/
theorem countWaits_cycleEvents (t : DelayName) (z : Bool) {es : List NibbleEvent} (h : AllHost es)
    (vs : List Nibble) : countWaits t (cycleEvents z es vs) =
      (if t = .wSettle then 2 * es.length else 0) + (if t = .rSettle then 2 * vs.length else 0) := by
  have hout : countWaits t outputEvents = 0 := by
    simp [outputEvents, countWaits]
  have hin : countWaits t (inputEvents z) = 0 := by
    cases z <;> simp [inputEvents, countWaits]
  simp [cycleEvents, hout, hin, countWaits_hosts t h, countWaits_targets]

theorem sampledLevels_hosts {es : List NibbleEvent} (h : AllHost es) :
    sampledLevels (es.flatMap slotEvents) = [] := by
  induction es with
  | nil => rfl
  | cons e es ih =>
    obtain ⟨v, f, rfl⟩ := h e List.mem_cons_self
    rw [List.flatMap_cons, sampledLevels_append, ih fun x hx => h x (List.mem_cons_of_mem _ hx)]
    rfl

theorem sampledLevels_targets (vs : List Nibble) :
    sampledLevels (vs.flatMap targetSlotEvents) = answerLevels (vs.map .target) := by
  induction vs with
  | nil => rfl
  | cons v vs ih =>
    rw [List.flatMap_cons, sampledLevels_append, ih]
    rfl

/-- The samples of a cycle are the target's answers (R107). -/
theorem sampledLevels_cycleEvents (z : Bool) {es : List NibbleEvent} (h : AllHost es) (vs : List Nibble) :
    sampledLevels (cycleEvents z es vs) = answerLevels (vs.map .target) := by
  have hin : sampledLevels (inputEvents z) = [] := by cases z <;> rfl
  simp [cycleEvents, hin, sampledLevels_hosts h, sampledLevels_targets,
    show sampledLevels outputEvents = [] from rfl]

/-! ### The handshake -/

/-- A host slot drives LAD while it is output. -/
theorem handshakeKept_hosts {ls : Lines} {es : List NibbleEvent} (h : AllHost es)
    (hout : ls.lad0.dir = .set .output ∧ ls.lad1.dir = .set .output ∧ ls.lad2.dir = .set .output ∧
      ls.lad3.dir = .set .output) : handshakeKept ls (es.flatMap slotEvents) = true := by
  induction es generalizing ls with
  | nil => rfl
  | cons e es ih =>
    obtain ⟨v, f, rfl⟩ := h e List.mem_cons_self
    rw [List.flatMap_cons, handshakeKept_append, Bool.and_eq_true]
    refine ⟨?_, ih (fun x hx => h x (List.mem_cons_of_mem _ hx)) hout⟩
    simp [slotEvents, hostSlotEvents, handshakeKept, eventLines, Lines.drive, Lines.get, Lines.put, isLad,
      hout]

/-- A target slot samples LAD while it is input. -/
theorem handshakeKept_targets {ls : Lines}
    (hin : ls.lad0.dir = .set .input ∧ ls.lad1.dir = .set .input ∧ ls.lad2.dir = .set .input ∧
      ls.lad3.dir = .set .input) (vs : List Nibble) :
    handshakeKept ls (vs.flatMap targetSlotEvents) = true := by
  induction vs generalizing ls with
  | nil => rfl
  | cons v vs ih =>
    rw [List.flatMap_cons, handshakeKept_append, Bool.and_eq_true]
    refine ⟨?_, ih hin⟩
    simp [targetSlotEvents, handshakeKept, eventLines, Lines.drive, Lines.get, Lines.put, isLad, hin]

/-- A cycle keeps the handshake whatever the lines were before it (R141). -/
theorem handshakeKept_cycleEvents (ls : Lines) (z : Bool) {es : List NibbleEvent} (h : AllHost es)
    (vs : List Nibble) : handshakeKept ls (cycleEvents z (es ++ [NibbleEvent.host 0xF false]) vs) = true := by
  have hhost : AllHost (es ++ [NibbleEvent.host 0xF false]) := by
    intro e he
    rcases List.mem_append.1 he with he | he
    · exact h e he
    · exact ⟨_, _, List.mem_singleton.1 he⟩
  simp only [cycleEvents, handshakeKept_append, replay_append, replay_hosts _ h, replay_outputEvents,
    Bool.and_eq_true]
  refine ⟨⟨⟨rfl, handshakeKept_hosts hhost ⟨rfl, rfl, rfl, rfl⟩⟩, ?_⟩, handshakeKept_targets ?_ _⟩
  · cases z <;> rfl
  · cases z <;> exact ⟨rfl, rfl, rfl, rfl⟩

end Sys2Proof.Machine
end

