-- ==== Sys2Proof/Tests/Slice0.lean ====
section
/-! SUPPORT. The implementer's own tests: ill-formed instructions, words written out by hand from the
encodings, the vectors of spec/95_test_vectors.md, and for every statement with hypotheses a concrete
state and operands that meet them. -/

namespace Sys2Proof.Tests

open Sys2Proof Sys2Proof.Machine

/-! ### Well-formedness: each check refuses an ill-formed term -/

theorem test_wf_sizeCode : (Instr.sizeCode 16 .memoryWrite).wellFormed = false := by decide
theorem test_wf_readCycle : (Instr.readCycle 0x0 3).wellFormed = false := by decide
theorem test_wf_readBlock : (Instr.readBlock 0x0 129).wellFormed = false := by decide
theorem test_wf_writeCycle : (Instr.writeCycle 0x0 [0x01, 0x02, 0x03]).wellFormed = false := by decide
theorem test_wf_writeBlock : (Instr.writeBlock 0x0 []).wellFormed = false := by decide
theorem test_wf_longest_read : (Instr.readBlock 0x0 128).wellFormed = true := by decide

/-! ### Decoding: a line written out by hand for each constructor

Frames: R71 to R77. Calls: the words of log 3. -/

theorem test_decode_setLinesOutput : decode [0x1, 0x0] = .ok .setLinesOutput := by decide
theorem test_decode_setLinesInput : decode [0x1, 0x1, 0x1] = .ok (.setLinesInput true) := by decide
theorem test_decode_assertFrame : decode [0x1, 0x2, 0x0] = .ok (.assertFrame false) := by decide
theorem test_decode_setClock : decode [0x1, 0x3, 0x1] = .ok (.setClock .high) := by decide
theorem test_decode_busInit : decode [0x1, 0x4] = .ok .busInit := by decide
theorem test_decode_writeNibble : decode [0x2, 0x0, 0xD, 0x1] = .ok (.writeNibble 0xD true) := by decide
theorem test_decode_readNibble : decode [0x2, 0x1] = .ok .readNibble := by decide
theorem test_decode_sizeCode :
    decode [0x3, 0x0, 0x8, 0x1, 0x1] = .ok (.sizeCode 16 .memoryWrite) := by
  decide
theorem test_decode_readCycle :
    decode [0x3, 0x1, 0x0, 0x0, 0x0, 0x7, 0x5, 0x5, 0x5, 0x5, 0x8, 0xF, 0x0] =
      .ok (.readCycle 0x00075555 128) := by decide
theorem test_decode_writeCycle :
    decode [0x3, 0x2, 0x0, 0x0, 0x4, 0x0, 0x0, 0x0, 0x1, 0x0, 0x2, 0x2, 0x1, 0x4, 0x3] = .ok (.writeCycle 0x00400010 [0x12, 0x34]) := by decide
theorem test_decode_findDevice :
    decode [0x4, 0x0, 0xF, 0xB, 0x0, 0x6] = .ok (.findDevice 0xBF 0x60) := by decide
theorem test_decode_readDeviceIds : decode [0x4, 0x1] = .ok .readDeviceIds := by decide
theorem test_decode_executeUnlockSequence :
    decode [0x4, 0x2, 0xF, 0xB, 0x0, 0x6,
      0x1, 0x0, 0x0, 0x0, 0x0, 0x5, 0x3,
      0x1, 0xA, 0xA, 0x0, 0x0, 0x0, 0x7, 0x5, 0x5, 0x5, 0x5, 0x0, 0x1] =
      .ok (.executeUnlockSequence ⟨0xBF, 0x60, ['S'], [⟨0xAA, 0x00075555⟩], []⟩ true) := by decide
theorem test_decode_readStatusRegister : decode [0x4, 0x3] = .ok .readStatusRegister := by decide
theorem test_decode_waitForWriteComplete : decode [0x4, 0x4] = .ok .waitForWriteComplete := by decide
theorem test_decode_identify : decode [0x5, 0x0] = .ok .identify := by decide
theorem test_decode_unlockForWrite : decode [0x5, 0x1] = .ok .unlockForWrite := by decide
theorem test_decode_unlockForRead : decode [0x5, 0x2] = .ok .unlockForRead := by decide
theorem test_decode_readBlock :
    decode [0x5, 0x3, 0x1, 0x2, 0x3, 0x4, 0x5, 0x6, 0x7, 0x8, 0x3] =
      .ok (.readBlock 0x12345678 3) := by decide
theorem test_decode_writeBlock :
    decode [0x5, 0x4, 0x0, 0x0, 0x4, 0x0, 0x0, 0x0, 0x1, 0x0, 0x1, 0xA, 0x5] = .ok (.writeBlock 0x00400010 [0x5A]) := by decide
theorem test_decode_readFrame :
    decode [0xD, 0x0, 0x0, 0x0, 0x7, 0x5, 0x5, 0x5, 0x5, 0x4] = .ok (.readFrame 0x0075555 .b16) := by decide
theorem test_decode_writeFrame :
    decode [0xE, 0x0, 0x0, 0x0, 0x0, 0x0, 0x0, 0x0, 0x0, 0x2, 0xE, 0xD, 0xD, 0xA, 0xE, 0xB, 0xF, 0xE] =
      .ok (.writeFrame 0x0000000 (.four 0xDE 0xAD 0xBE 0xEF)) := by decide

/-- R84: START 0x0 is no frame's and no call's. -/
theorem test_decode_reserved_start : decode [0x0, 0x0] = .error .unknownCall := by decide
/-- R87: another IDSEL. -/
theorem test_decode_reserved_idsel :
    decode [0xD, 0x1, 0x0, 0x0, 0x7, 0x5, 0x5, 0x5, 0x5, 0x0] = .error .badIdsel := by decide
/-- R85: MSIZE 0x4 is a read's, not a write's. -/
theorem test_decode_reserved_msize :
    decode [0xE, 0x0, 0x0, 0x0, 0x7, 0x5, 0x5, 0x5, 0x5, 0x4, 0x0, 0x0] = .error .reservedMsize := by decide
theorem test_decode_truncated : decode [0x5, 0x3, 0x0] = .error .truncated := by decide
theorem test_decode_huge_count :
    decode [0x3, 0x2, 0x0, 0x0, 0x0, 0x0, 0x0, 0x0, 0x0, 0x0, 0xF, 0xF, 0xF, 0xF, 0xF, 0xF, 0xF, 0xF,
      0x7, 0x2] = .error .truncated := by decide
theorem test_decode_trailing : decode [0x1, 0x4, 0x1] = .error .trailing := by decide
theorem test_decode_fill : decode [0x1, 0x4, 0x0, 0x0] = .ok .busInit := by decide
theorem test_decode_badFlag : decode [0x1, 0x2, 0x2] = .error .badFlag := by decide
theorem test_decode_badChar :
    decode [0x4, 0x2, 0xF, 0xB, 0x0, 0x6, 0x1, 0x0, 0x0, 0xD, 0x8, 0x0, 0x0] = .error .badChar := by decide

/-- The table's words for READ_FRAME and WRITE_FRAME: START 0xD and 0xE, all else zero. -/
theorem test_table_word_read : decodeTableWord 8 0xD = some (.readFrame 0x0000000 .b1) := by decide
theorem test_table_word_write : decodeTableWord 8 0xE = some (.writeFrame 0x0000000 (.one 0x00)) := by
  decide
/-- The next step from reset runs it: from process start a bus operation faults (R231). -/
theorem test_fetch_word : step (State.reset.withFetchWord 8 0xD) = .fault .notPrepared := by rfl


/-! ### Vectors of spec/95_test_vectors.md -/

/-- The vectors' parameters, TP. -/
def tp : Params :=
  { pinMap := ⟨0, 1, 2, 3, 4, 5, 6, 7⟩, weLevel := .high, writeTarZeroFirst := false
    mfrIdAddr := 0xFFBC0000, chipIdAddr := 0xFFBC0001, statusAddr := 0xFFBC0002
    registry := [Config.refDevice []], pollLimit := none }

/-- A prepared engine with TP and a target that answers the list. -/
def live (answers : List Nibble) : State :=
  { State.processStart tp false (.oracle answers) [] with prepared := true }

/-- The same in diagnostic mode. -/
def diag (answers : List Nibble) : State := { live answers with diagnostic := true }

/-- The same after a fatal `SyncError`. -/
def lost : State := { live [] with desync := true, phase := .aborted }

/-- A prepared engine with TP and the reference target holding the reference device's IDs. -/
def onReference (mem : Memory) (status : Byte) : State :=
  { live [] with target := .reference { RefTarget.initial 0xBF 0x60 with mem := mem, status := status } }

/-- What an outcome shows of its next state. -/
def shows {α : Type} (f : State → α) : Host.Outcome State Fault Refusal → Option α
  | .next t => some (f t)
  | .fault _ => none
  | .refused _ => none

/-- The outcome handed to the caller, and the host slots and target slots clocked. -/
def seen (t : State) : List OpOutcome × List Nibble × List Nibble :=
  (t.results, hostSlots t.nibbles, targetSlots t.nibbles)

/-- L2.1 vectors 1 to 5. -/
theorem test_setLinesOutput : shows State.trace (exec .setLinesOutput (live [])) =
    some [.dir .lad0 .output, .dir .lad1 .output, .dir .lad2 .output, .dir .lad3 .output] := by decide
theorem test_setLinesInput : shows State.trace (exec (.setLinesInput true) (live [])) =
    some [.lvl .lad0 .low, .lvl .lad1 .low, .lvl .lad2 .low, .lvl .lad3 .low,
      .dir .lad0 .input, .dir .lad1 .input, .dir .lad2 .input, .dir .lad3 .input] := by decide
theorem test_assertFrame : shows State.trace (exec (.assertFrame true) (live [])) =
    some [.lvl .lframe .low] := by decide
theorem test_assertFrame_off : shows State.trace (exec (.assertFrame false) (live [])) =
    some [.lvl .lframe .high] := by decide
theorem test_setClock : shows State.trace (exec (.setClock .high) (live [])) =
    some [.lvl .lclk .high] := by decide
/-- L2.1 vectors 6 and 7. -/
theorem test_driveLAD : (driveLAD 0x6 (live [])).trace =
    [.lvl .lad0 .low, .lvl .lad1 .high, .lvl .lad2 .high, .lvl .lad3 .low] := by decide
theorem test_sampleLAD : (sampleLAD (live [0x8])).1 = 0x8 ∧ (sampleLAD (live [0x8])).2.trace =
    [.smp .lad0 .low, .smp .lad1 .low, .smp .lad2 .low, .smp .lad3 .high] := by decide
/-- L2.1 vector 8. -/
theorem test_busInit : shows State.trace (exec .busInit (live [])) =
    some [.dir .reset .output, .lvl .reset .low, .dir .lclk .output, .lvl .lclk .low,
      .dir .lframe .output, .lvl .lframe .high, .dir .we .output, .lvl .we .high,
      .dir .lad0 .output, .dir .lad1 .output, .dir .lad2 .output, .dir .lad3 .output,
      .wait .reset, .lvl .reset .high, .wait .reset] := by decide
/-- L2.3 vector 20, the recovery. -/
theorem test_busInit_recovers :
    shows (fun t => (t.desync, t.prepared, t.device, t.phase)) (exec .busInit lost) =
      some (false, true, none, .idle) := by decide

/-- L2.2 vector 1. -/
theorem test_writeNibble : shows State.trace (exec (.writeNibble 0xD true) (live [])) =
    some [.lvl .lclk .high, .lvl .lad0 .high, .lvl .lad1 .low, .lvl .lad2 .high, .lvl .lad3 .high,
      .lvl .lframe .low, .wait .wSettle, .lvl .lclk .low, .wait .wSettle] := by decide
theorem test_writeNibble_log : shows State.nibbles (exec (.writeNibble 0xD true) (live [])) =
    some [.host 0xD true] := by decide
/-- L2.2 vector 4. -/
theorem test_readNibble : shows State.trace (exec .readNibble (live [0xB])) =
    some [.wait .rSettle, .lvl .lclk .high, .wait .rSettle, .smp .lad0 .high, .smp .lad1 .high,
      .smp .lad2 .low, .smp .lad3 .high, .lvl .lclk .low] := by decide
theorem test_readNibble_value : shows (fun t => (t.results, t.nibbles)) (exec .readNibble (live [0xB])) =
    some ([.returned (.nibble 0xB)], [.target 0xB]) := by decide

/-- R126: the corner 16, for both kinds. -/
theorem test_sizeCode : shows State.results (exec (.sizeCode 16 .memoryRead) (live [])) =
    some [.returned (.nibble 0x4)] := by decide
theorem test_sizeCode_write : shows State.results (exec (.sizeCode 16 .memoryWrite) (live [])) =
    some [.raised (.badBlockLength .memoryWrite 16)] := by decide

/-- L2.3 vector 2. -/
theorem test_readCycle :
    shows seen (exec (.readCycle 0x400000 2) (live [0x9, 0x0, 0x4, 0x3, 0x2, 0x1, 0xF, 0x9])) =
      some ([.returned (.cycle [0x34, 0x12] false)],
        [0xD, 0x0, 0x0, 0x4, 0x0, 0x0, 0x0, 0x0, 0x0, 0x1, 0xF],
        [0x9, 0x0, 0x4, 0x3, 0x2, 0x1, 0xF, 0x9]) := by decide
/-- L2.3 vector 8. -/
theorem test_readCycle_sync :
    shows (fun t => (seen t, t.desync, t.phase)) (exec (.readCycle 0x400000 1) (live [0x9, 0x6])) =
      some (([.raised (.syncError .rsync .memoryRead 0x400000 0x6)],
        [0xD, 0x0, 0x0, 0x4, 0x0, 0x0, 0x0, 0x0, 0x0, 0x0, 0xF], [0x9, 0x6]), true, .aborted) := by decide
/-- L2.3 vector 10. -/
theorem test_writeCycle :
    shows seen (exec (.writeCycle 0x400010 [0x12, 0x34]) (live [0x9, 0x0, 0xF, 0x9])) =
      some ([.returned .unit],
        [0xE, 0x0, 0x0, 0x4, 0x0, 0x0, 0x0, 0x1, 0x0, 0x1, 0x2, 0x1, 0x4, 0x3, 0xF],
        [0x9, 0x0, 0xF, 0x9]) := by decide
/-- L2.3 vector 13. -/
theorem test_writeCycle_tar :
    shows (fun t => (t.results, t.nibbles.length)) (exec (.writeCycle 0x75555 [0xAA]) (live [0x9, 0x0, 0x7])) =
      some ([.raised (.syncError .tar .memoryWrite 0x75555 0x7)], 16) := by decide
/-- The frame rows run the same slots: L2.3 vectors 1 and 11. -/
theorem test_readFrame :
    shows seen (exec (.readFrame 0x0075555 .b1) (live [0x9, 0x0, 0xB, 0xA, 0xF, 0x9])) =
      some ([.returned (.cycle [0xAB] false)],
        [0xD, 0x0, 0x0, 0x0, 0x7, 0x5, 0x5, 0x5, 0x5, 0x0, 0xF],
        [0x9, 0x0, 0xB, 0xA, 0xF, 0x9]) := by decide
theorem test_writeFrame :
    shows seen (exec (.writeFrame 0x0000000 (.four 0xDE 0xAD 0xBE 0xEF)) (live [0x9, 0x0, 0xF, 0x9])) =
      some ([.returned .unit],
        [0xE, 0x0, 0x0, 0x0, 0x0, 0x0, 0x0, 0x0, 0x0, 0x2, 0xE, 0xD, 0xD, 0xA, 0xE, 0xB, 0xF, 0xE, 0xF],
        [0x9, 0x0, 0xF, 0x9]) := by decide

/-- L1.6 and L2.4 vector 1: the pair's order matters. -/
theorem test_findDevice : shows State.results (exec (.findDevice 0xBF 0x60) (live [])) =
    some [.returned (.device (some (Config.refDevice [])))] := by decide
theorem test_findDevice_swapped : shows State.results (exec (.findDevice 0x60 0xBF) (live [])) =
    some [.returned (.device none)] := by decide
/-- L2.4 vector 2, with the reference target. -/
theorem test_readDeviceIds : shows seen (exec .readDeviceIds (onReference [] 0x00)) =
    some ([.returned (.ids 0xBF 0x60)],
      [0xD, 0x0, 0xF, 0xB, 0xC, 0x0, 0x0, 0x0, 0x0, 0x0, 0xF,
        0xD, 0x0, 0xF, 0xB, 0xC, 0x0, 0x0, 0x0, 0x1, 0x0, 0xF],
      [0xF, 0x0, 0xF, 0xB, 0xF, 0xF, 0xF, 0x0, 0x0, 0x6, 0xF, 0xF]) := by decide
/-- L2.4 vectors 3 and 4. -/
theorem test_identify : shows State.device (exec .identify (onReference [] 0x00)) =
    some (some (Config.refDevice [])) := by decide
theorem test_identify_unknown :
    shows (fun t => (t.results, t.device))
      (exec .identify (live [0x9, 0x0, 0x2, 0x1, 0xF, 0x9, 0x9, 0x0, 0x4, 0x3, 0xF, 0x9])) =
      some ([.returned (.ids 0x12 0x34)], none) := by decide
set_option maxRecDepth 4000 in
/-- L2.4 vector 15: the third pair is not issued. -/
theorem test_executeUnlockSequence_stops :
    shows seen (exec (.executeUnlockSequence (Config.refDevice []) true)
        (live [0x9, 0x0, 0xF, 0x9, 0x9, 0x3])) =
      some ([.raised (.syncError .rsync .memoryWrite 0x72AAA 0x3)],
        [0xE, 0x0, 0x0, 0x0, 0x7, 0x5, 0x5, 0x5, 0x5, 0x0, 0xA, 0xA, 0xF,
          0xE, 0x0, 0x0, 0x0, 0x7, 0x2, 0xA, 0xA, 0xA, 0x0, 0x5, 0x5, 0xF],
        [0x9, 0x0, 0xF, 0x9, 0x9, 0x3]) := by decide
/-- R170: an empty sequence is a no-op. -/
theorem test_executeUnlockSequence_empty :
    shows (fun t => (t.results, t.trace)) (exec (.executeUnlockSequence (Config.refDevice []) false) (live [])) =
      some ([.returned .unit], []) := by decide
/-- L2.4 vector 6 (L1.7). -/
theorem test_unlockForWrite :
    shows (fun t => hostSlots t.nibbles)
      (exec .unlockForWrite { onReference [] 0x00 with device := some (Config.refDevice []) }) =
      some [0xE, 0x0, 0x0, 0x0, 0x7, 0x5, 0x5, 0x5, 0x5, 0x0, 0xA, 0xA, 0xF,
        0xE, 0x0, 0x0, 0x0, 0x7, 0x2, 0xA, 0xA, 0xA, 0x0, 0x5, 0x5, 0xF,
        0xE, 0x0, 0x0, 0x0, 0x7, 0x5, 0x5, 0x5, 0x5, 0x0, 0x0, 0xA, 0xF] := by decide
/-- L2.4 vectors 5 and 9. -/
theorem test_unlockForWrite_no_device :
    shows (fun t => (t.results, t.trace)) (exec .unlockForWrite (live [])) =
      some ([.raised .unsupportedDevice], []) := by decide
theorem test_unlockForWrite_desynced : exec .unlockForWrite lost = .fault .busDesynced := by rfl
/-- L2.4 vectors 7 and 8. -/
theorem test_unlockForRead :
    shows (fun t => (t.results, t.trace))
      (exec .unlockForRead { live [] with device := some (Config.refDevice []) }) =
      some ([.returned .unit], []) := by decide
theorem test_unlockForRead_no_device : shows State.results (exec .unlockForRead (live [])) =
    some [.raised .unsupportedDevice] := by decide
/-- L2.4 vector 10. -/
theorem test_readStatusRegister : shows seen (exec .readStatusRegister (onReference [] 0x01)) =
    some ([.returned (.byte 0x01)],
      [0xE, 0x0, 0xF, 0xB, 0xC, 0x0, 0x0, 0x0, 0x2, 0x0, 0x0, 0x7, 0xF,
        0xD, 0x0, 0xF, 0xB, 0xC, 0x0, 0x0, 0x0, 0x2, 0x0, 0xF],
      [0xF, 0x0, 0xF, 0xF, 0xF, 0x0, 0x1, 0x0, 0xF, 0xF]) := by decide
theorem test_readStatusRegister_mode :
    shows State.target (exec .readStatusRegister (onReference [] 0x01)) =
      some (.reference ⟨[], 0xBF, 0x60, 0x01, false⟩) := by decide
set_option maxRecDepth 4000 in
/-- L2.4 vector 12: only bit 0 counts. -/
theorem test_waitForWriteComplete :
    shows (fun t => (t.results, countWaits .poll t.trace)) (exec .waitForWriteComplete (onReference [] 0xFE)) =
      some ([.returned .unit], 0) := by decide
/-- L2.4 vector 13, the second poll. -/
theorem test_waitForWriteComplete_limit :
    shows (fun t => (t.results, t.desync)) (exec .waitForWriteComplete
        { onReference [] 0x01 with params := { tp with pollLimit := some 2 }, polls := some 1 }) =
      some ([.raised (.pollTimeout 0xFFBC0002 0x01)], false) := by decide
/-- L2.4 vectors 17 and 16. -/
theorem test_readBlock :
    shows (fun t => (t.results, t.reports))
      (exec (.readBlock 0x400010 1) (live [0x9, 0x0, 0xA, 0x5, 0x3, 0x9])) =
      some ([.returned (.bytes [0x5A])], [.turnaroundWarning 0x400010 0x3]) := by decide
theorem test_readBlock_reference :
    shows State.results (exec (.readBlock 0x400010 1) (onReference [(0x400010, 0x5A)] 0x00)) =
      some [.returned (.bytes [0x5A])] := by decide
/-- L2.4 vectors 18 and 19. -/
theorem test_writeBlock :
    shows State.target (exec (.writeBlock 0x400010 [0x5A]) (onReference [] 0x00)) =
      some (.reference ⟨[(0x400010, 0x5A)], 0xBF, 0x60, 0x00, false⟩) := by decide
theorem test_writeBlock_empty :
    shows (fun t => (t.results, t.trace)) (exec (.writeBlock 0x0 []) (live [])) =
      some ([.raised (.badBlockLength .memoryWrite 0)], []) := by decide
/-- P4: both reports, in order, and the bytes. -/
theorem test_diagnostic_reports :
    shows (fun t => (t.results, t.reports))
      (exec (.readBlock 0x400000 2) (diag [0xF, 0x3, 0x4, 0x3, 0x2, 0x1, 0x0, 0xF])) =
      some ([.returned (.bytes [0x34, 0x12])],
        [.diagSync 0x400000 0x3, .turnaroundWarning 0x400000 0x0]) := by decide
/-- P3: the host calls of an event go to the line's pin. -/
theorem test_hostCall : hostCall tp.pinMap (.lvl .lclk .high) = .writeLevel 6 .high := by decide
/-- R90: a program's lines as text. -/
theorem test_assemble :
    assemble ["INIT".toList, "RD 0x400000, 4   ; four bytes".toList, "WAITWR".toList] =
      some [encode .busInit, encode (.readBlock 0x400000 4), encode .waitForWriteComplete] := by decide
theorem test_asm_write : asmLine "WR 0x400010, 0x5A, 0xC3".toList = .op (.writeBlock 0x400010 [0x5A, 0xC3]) := by
  decide
/-- R90, R126: a length of any size reaches the operation, which raises. -/
theorem test_asm_long_read :
    (assemble ["RD 0x0, 0x100000001".toList]).map (List.map decode) = some [.ok (.readBlock 0x0 0x100000001)] ∧
      shows State.results (exec (.readBlock 0x0 0x100000001) (live [])) =
        some [.raised (.badBlockLength .memoryRead 0x100000001)] := by decide
theorem test_asm_bad : asmLine "RESET".toList = .bad := by decide
/-- R92, R121: slots that never had LFRAME asserted are no frame; with START asserted they are. -/
theorem test_no_frame_without_start :
    receivedFrame ((readFrameHost 0x75555 0x0).map fun v => .host v false) = none ∧
      receivedFrame (hostEntries (readFrameHost 0x75555 0x0)) = some (.read 0x0075555 .b1) := by decide
/-- R69: a fresh reference target's memory and status. -/
theorem test_reference_initial :
    (RefTarget.initial 0xBF 0x60).byteAt tp 0x0400010 = 0xFF ∧
      shows State.results (exec .readStatusRegister { live [] with target := .reference (.initial 0xBF 0x60) }) =
        some [.returned (.byte 0x00)] := by decide
/-- R69: the memory keeps no cell that reads 0xFF. -/
theorem test_memory_canonical : Memory.write [(5, 0x01), (9, 0x02)] 5 0xFF = [(9, 0x02)] := by decide

/-! ### Witnesses: for each statement with hypotheses, states and operands that meet them -/

/-- StepRunsTheDecodedLine: a line that completes, one that faults. -/
theorem witness_step :
    decode [0x1, 0x4] = .ok .busInit ∧ (∃ t, exec .busInit (live []) = .next t) ∧
      decode [0x5, 0x0] = .ok .identify ∧ exec .identify State.reset = .fault .notPrepared :=
  ⟨by decide, ⟨_, rfl⟩, by decide, rfl⟩
/-- LinesAreTheModelsInterface: no line; a line that is no instruction; a table word. -/
theorem witness_lines :
    (live []).calls = [] ∧ decode [0x0, 0x0] = .error .unknownCall ∧ decode [] = .error .truncated ∧
      decodeTableWord 8 0xD = some (.readFrame 0x0000000 .b1) := by decide
/-- DecodeOfEncodeIsTheInstruction, at a length beyond 32 bits. -/
theorem witness_encode :
    decode (encode (.readCycle 0xFFFFFFFF (2 ^ 32 + 1))) = .ok (.readCycle 0xFFFFFFFF (2 ^ 32 + 1)) := by
  decide
/-- DecodedWordsAreTheEncoding. -/
theorem witness_decodeCall :
    decodeCall [0x2, 0x0, 0xF, 0x0, 0x7] = .ok (.writeNibble 0xF false, [0x7]) := by decide
/-- ReservedFrameValuesRefused, each clause next to a value that is accepted. -/
theorem witness_reserved :
    decodeFrame [0xF] = .error .unknownCall ∧ decodeFrame [0xC] = .error .unknownCall ∧
      decodeFrame [0xD, 0x1] = .error .badIdsel ∧ decodeFrame [0xE, 0xF] = .error .badIdsel ∧
      decodeFrame [0xD, 0x0, 0x0, 0x0, 0x0, 0x0, 0x0, 0x0, 0x0, 0x3] = .error .reservedMsize ∧
      decodeFrame [0xD, 0x0, 0x0, 0x0, 0x0, 0x0, 0x0, 0x0, 0x0, 0x8] = .error .reservedMsize ∧
      decodeFrame [0xE, 0x0, 0x0, 0x0, 0x0, 0x0, 0x0, 0x0, 0x0, 0x4] = .error .reservedMsize ∧
      decodeFrame [0xE, 0x0, 0x0, 0x0, 0x0, 0x0, 0x0, 0x0, 0x0, 0x3] = .error .reservedMsize := by decide
/-- BusInitTwiceLeavesTheSameState and BusInitRecovers. -/
theorem witness_busInit : ∃ t, exec .busInit lost = .next t := ⟨_, rfl⟩
/-- TargetDecodesTheEmittedFrame, its last clause: a log with slots but none that starts a frame. -/
theorem witness_no_start : ∀ v, NibbleEvent.host v true ∉ [.host 0xD false, .target 0x0] := by simp
/-- FrameSlotsAreItsWords: a frame that ends at RSYNC and one that returns. -/
theorem witness_frame_slots :
    (∃ t, exec (.readFrame 0x0 .b128) (live [0x9, 0x1]) = .next t) ∧
      ∃ t, exec (.writeFrame 0x0 (.one 0xAA)) (live [0x9, 0x0, 0xF, 0x9]) = .next t := ⟨⟨_, rfl⟩, _, rfl⟩
/-- OnlyBusInitDrivesResetAndWe: a primitive and a cycle. -/
theorem witness_other_lines :
    (∃ t, exec (.setClock .high) (live []) = .next t) ∧
      (∃ t, exec (.writeCycle 0x0 [0x00]) (live [0xF, 0x0, 0xF, 0xF]) = .next t) := ⟨⟨_, rfl⟩, _, rfl⟩
/-- ReadNibbleEffect: a listed answer, and the reference target outside a frame. -/
theorem witness_readNibble :
    (live [0xB]).target.draw tp [] = (0xB, .oracle []) ∧
      ∃ v tgt, (onReference [] 0x00).target.draw tp [] = (v, tgt) := ⟨by decide, _, _, rfl⟩
/-- PinsAtTheClockEdges. -/
theorem witness_pins : ∃ t u, exec (.writeNibble 0xD true) (live []) = .next t ∧
    exec (.writeNibble 0x0 false) t = .next u := ⟨_, _, rfl, rfl⟩
/-- SizeCodeTable and BadBlockLengthTouchesNothing: lengths next to the legal ones. -/
theorem witness_bad_lengths :
    (live []).ready = true ∧ 0 ∉ [1, 2, 4, 16, 128] ∧ 3 ∉ [1, 2, 4, 16, 128] ∧
      129 ∉ [1, 2, 4, 16, 128] ∧ ([] : List Byte).length ∉ [1, 2, 4] ∧
      (List.replicate 16 0x00#8).length ∉ [1, 2, 4] := by decide
/-- FaultsAreExactlyTheTwoChecks. -/
theorem witness_faults :
    busOperation .identify = true ∧ State.reset.prepared = false ∧
      lost.prepared = true ∧ lost.desync = true := by decide
/-- ReadCycleCompletes and BlockOperationsComplete: the shortest and the longest read; any RSYNC in
diagnostic mode. -/
theorem witness_read :
    (live (readFrameTarget 0x9 0x0 [0xAB] 0xF 0x9)).ready = true ∧
      (live (readFrameTarget 0x9 0x0 [0xAB] 0xF 0x9 ++ [])).readAnswers 0x75555 1
        (readFrameTarget 0x9 0x0 [0xAB] 0xF 0x9) (.oracle []) ∧
      (live (readFrameTarget 0x9 0x0 (List.replicate 128 0xAB) 0x0 0x9 ++ [])).readAnswers 0x75555 128
        (readFrameTarget 0x9 0x0 (List.replicate 128 0xAB) 0x0 0x9) (.oracle []) ∧
      (diag []).ready = true ∧ (diag []).diagnostic = true ∧
      (diag (readFrameTarget 0x9 0x6 [0xAB] 0xF 0x9 ++ [])).readAnswers 0x75555 1
        (readFrameTarget 0x9 0x6 [0xAB] 0xF 0x9) (.oracle []) :=
  ⟨by decide, readAnswers_oracle rfl _ _, readAnswers_oracle rfl _ _, by decide, by decide,
    readAnswers_oracle rfl _ _⟩
/-- ReadCycleSyncErrorEndsAtOnce, both clauses, and IdentificationStopsAtSyncError, the first cycle. -/
theorem witness_read_sync :
    (live ([0x9, 0x1] ++ [])).ready = true ∧ (live ([0x9, 0x1] ++ [])).diagnostic = false ∧
      (live ([0x9, 0x1] ++ [])).readAnswers tp.mfrIdAddr 1 [0x9, 0x1] (.oracle []) ∧
      (live ([0x9, 0x1] ++ [])).readAnswers (wideAddr 0x0) (readBytes .b128) [0x9, 0x1] (.oracle []) :=
  ⟨by decide, by decide, readAnswers_oracle rfl _ _, readAnswers_oracle rfl _ _⟩
/-- WriteCycleCompletes and BlockOperationsComplete: one byte and four. -/
theorem witness_write :
    (live ([0x9, 0x0, 0xF, 0x9] ++ [])).ready = true ∧
      (live ([0x9, 0x0, 0xF, 0x9] ++ [])).writeAnswers 0x0 [0xAA] [0x9, 0x0, 0xF, 0x9] (.oracle []) ∧
      (live ([0x9, 0x0, 0xF, 0x9] ++ [])).writeAnswers 0x0 [1, 2, 3, 4] [0x9, 0x0, 0xF, 0x9] (.oracle []) :=
  ⟨by decide, writeAnswers_oracle rfl _ _, writeAnswers_oracle rfl _ _⟩
/-- WriteCycleSyncErrorsEndAtOnce, both clauses, and StatusReadStopsAtSyncError, its first: a bad RSYNC,
in diagnostic mode too, and a bad trailing turnaround. -/
theorem witness_write_sync :
    (live ([0x9, 0x1] ++ [])).writeAnswers tp.statusAddr [0x70] [0x9, 0x1] (.oracle []) ∧
      writeEndsAt [0x9, 0x1] .rsync 0x1 ∧
      (diag ([0x9, 0xF] ++ [])).writeAnswers 0x75555 [0xAA] [0x9, 0xF] (.oracle []) ∧
      writeEndsAt [0x9, 0xF] .rsync 0xF ∧
      (live ([0x9, 0x0, 0xE] ++ [])).writeAnswers tp.statusAddr [0x70] [0x9, 0x0, 0xE] (.oracle []) ∧
      (live ([0x9, 0x0, 0xE] ++ [])).writeAnswers (wideAddr 0x0) (dataBytes (.two 0x01 0x02))
        [0x9, 0x0, 0xE] (.oracle []) ∧
      writeEndsAt [0x9, 0x0, 0xE] .tar 0xE :=
  ⟨writeAnswers_oracle rfl _ _, .inl ⟨_, rfl, rfl, by decide⟩, writeAnswers_oracle rfl _ _,
    .inl ⟨_, rfl, rfl, by decide⟩, writeAnswers_oracle rfl _ _, writeAnswers_oracle rfl _ _,
    .inr ⟨_, rfl, rfl, by decide⟩⟩
/-- StatusReadStopsAtSyncError, its second clause: the read's RSYNC. -/
theorem witness_status_read_sync : ∃ u,
    writeRuns tp.statusAddr [0x70] (live ([0x9, 0x0, 0xF, 0x9] ++ ([0x9, 0x1] ++ []))) u ∧
      u.readAnswers tp.statusAddr 1 [0x9, 0x1] (.oracle []) :=
  ⟨_, writeRuns_oracle rfl _ _, readAnswers_oracle rfl _ _⟩
/-- CycleClockCounts: each clause's end. -/
theorem witness_counts :
    shows State.results (exec (.readCycle 0x0 1) (live (readFrameTarget 0x9 0x0 [0xAB] 0x0 0x9))) =
        some [.returned (.cycle [0xAB] true)] ∧
      shows State.results (exec (.readCycle 0x0 1) (live [0x9, 0x1])) =
        some [.raised (.syncError .rsync .memoryRead 0x0 0x1)] ∧
      shows State.results (exec (.writeCycle 0x0 [0xAA]) (live [0x9, 0x0, 0xF, 0x9])) =
        some [.returned .unit] ∧
      shows State.results (exec (.writeCycle 0x0 [0xAA]) (live [0x9, 0x1])) =
        some [.raised (.syncError .rsync .memoryWrite 0x0 0x1)] ∧
      shows State.results (exec (.writeCycle 0x0 [0xAA]) (live [0x9, 0x0, 0xE])) =
        some [.raised (.syncError .tar .memoryWrite 0x0 0xE)] := by decide
/-- BusOperationsReleaseTheBus and DirectionalHandshakeHolds. -/
theorem witness_bus_operation :
    busOperation (.writeCycle 0x0 [0xAA]) = true ∧
      shows (fun t => decide (t.nibbles ≠ [])) (exec (.writeCycle 0x0 [0xAA]) (live [0x9, 0x1])) =
        some true := by decide
/-- HighAddressBitsHaveNoEffect: one address with bits 31..28 set. -/
theorem witness_high_bits :
    frameAddr 0xF0000000 = frameAddr 0x00000000 ∧
      (∃ t, exec (.readCycle 0xF0000000 1) (live [0x9, 0x1]) = .next t) ∧
      (∃ t, exec (.writeCycle 0xF0000000 [0xAA]) (live [0x9, 0x1]) = .next t) ∧
      exec (.readCycle 0xF0000000 1) lost = .fault .busDesynced ∧
      exec (.writeCycle 0xF0000000 [0xAA]) lost = .fault .busDesynced :=
  ⟨by decide, ⟨_, rfl⟩, ⟨_, rfl⟩, rfl, rfl⟩
/-- PhaseTableRunsTheReadCycle and PhaseTableRunsTheWriteCycle: both ends of each. -/
theorem witness_phases :
    (∃ r t, readCycle 0x0 1 (live (readFrameTarget 0x9 0x0 [0xAB] 0xF 0x9)) = .ok r t) ∧
      (∃ e t, readCycle 0x0 1 (live [0x9, 0x1]) = .raised e t) ∧
      (∃ t, writeCycle 0x0 [0xAA] (live [0x9, 0x0, 0xF, 0x9]) = .ok () t) ∧
      (∃ e t, writeCycle 0x0 [0xAA] (live [0x9, 0x1]) = .raised e t) :=
  ⟨⟨_, _, rfl⟩, ⟨_, _, rfl⟩, ⟨_, rfl⟩, _, _, rfl⟩
/-- FramesComplete. -/
theorem witness_frames :
    [0xAB#8].length = readBytes .b1 ∧
      (live (readFrameTarget 0x9 0x0 [0xAB] 0xF 0x9 ++ [])).readAnswers (wideAddr 0x0) 1
        (readFrameTarget 0x9 0x0 [0xAB] 0xF 0x9) (.oracle []) ∧
      (live ([0x9, 0x0, 0xF, 0x9] ++ [])).writeAnswers (wideAddr 0x0) (dataBytes (.one 0xAA))
        [0x9, 0x0, 0xF, 0x9] (.oracle []) :=
  ⟨by decide, readAnswers_oracle rfl _ _, writeAnswers_oracle rfl _ _⟩
/-- LegalRegistryLookups. -/
theorem witness_registry : (live []).params.legal = true := by decide
/-- The answers of a target to the two identification cycles. -/
def idAnswers : List Nibble := readFrameTarget 0x9 0x0 [0xBF] 0xF 0x9 ++ (readFrameTarget 0x9 0x0 [0x60] 0x0 0x9 ++ [])
/-- IdentificationCompletes. -/
theorem witness_id : (live idAnswers).ready = true ∧ ∃ t, idRuns 0xBF 0x60 (live idAnswers) t :=
  ⟨by decide, _, _, 0xF, 0x0, readRuns_oracle rfl _, readRuns_oracle rfl _⟩
/-- IdentificationStopsAtSyncError, the second cycle. -/
theorem witness_id_second : ∃ u,
    readRuns tp.mfrIdAddr [0xBF] 0xF (live (readFrameTarget 0x9 0x0 [0xBF] 0xF 0x9 ++ ([0x9, 0x1] ++ []))) u ∧
      u.readAnswers tp.chipIdAddr 1 [0x9, 0x1] (.oracle []) :=
  ⟨_, readRuns_oracle rfl _, readAnswers_oracle rfl _ _⟩
/-- UnlockSequenceCompletes and UnlockRunsTheDevicesSequence: the reference sequence, and an empty one on an engine that is not prepared. -/
theorem witness_sequence :
    (∃ t, sequenceRuns Config.refWriteSeq (live ([0x9, 0x0, 0xF, 0x9] ++ ([0x9, 0x0, 0xF, 0x9] ++
        ([0x9, 0x0, 0xF, 0x9] ++ [])))) t) ∧
      State.reset.ready = false ∧ sequenceRuns [] State.reset State.reset ∧
      { live [] with device := some (Config.refDevice []) }.device = some (Config.refDevice []) :=
  ⟨⟨_, _, writeRuns_oracle rfl _ _, _, writeRuns_oracle rfl _ _, _, writeRuns_oracle rfl _ _, rfl⟩,
    rfl, rfl, rfl⟩
/-- UnlockSequenceStopsAtSyncError: the second of three pairs, at RSYNC and at the turnaround. -/
theorem witness_sequence_stops :
    Config.refWriteSeq = [⟨0xAA, 0x75555⟩] ++ ⟨0x55, 0x72AAA⟩ :: [⟨0xA0, 0x75555⟩] ∧
      ∃ u, sequenceRuns [⟨0xAA, 0x75555⟩] (live ([0x9, 0x0, 0xF, 0x9] ++ ([0x9, 0x3] ++ []))) u ∧
        u.writeAnswers 0x72AAA [0x55] [0x9, 0x3] (.oracle []) ∧ writeEndsAt [0x9, 0x3] .rsync 0x3 ∧
      ∃ u, sequenceRuns [⟨0xAA, 0x75555⟩]
          { live ([0x9, 0x0, 0xF, 0x9] ++ ([0x9, 0x0, 0x3] ++ [])) with
            device := some (Config.refDevice []) } u ∧
        u.writeAnswers 0x72AAA [0x55] [0x9, 0x0, 0x3] (.oracle []) ∧ writeEndsAt [0x9, 0x0, 0x3] .tar 0x3 :=
  ⟨rfl, _, ⟨_, writeRuns_oracle rfl _ _, rfl⟩, writeAnswers_oracle rfl _ _, .inl ⟨_, rfl, rfl, by decide⟩,
    _, ⟨_, writeRuns_oracle rfl _ _, rfl⟩, writeAnswers_oracle rfl _ _, .inr ⟨_, rfl, rfl, by decide⟩⟩
/-- UnlockNeedsADevice. -/
theorem witness_no_device : (live []).ready = true ∧ (live []).device = none := by decide
/-- The answers of a target to a status read. -/
def statusAnswers (status : Byte) (rest : List Nibble) : List Nibble :=
  [0x9, 0x0, 0xF, 0x9] ++ (readFrameTarget 0x9 0x0 [status] 0xF 0x9 ++ rest)
/-- StatusReadCompletes and WaitPollsTheStatus (ready and busy). -/
theorem witness_status :
    (∃ t, statusRuns 0xFE (live (statusAnswers 0xFE [])) t) ∧
      (∃ t, statusRuns 0x01 (live (statusAnswers 0x01 [])) t) ∧
      (∃ t, statusRuns 0x01 { live (statusAnswers 0x01 []) with
        params := { tp with pollLimit := some 1 } } t) :=
  ⟨⟨_, _, 0xF, writeRuns_oracle rfl _ _, readRuns_oracle rfl _⟩,
    ⟨_, _, 0xF, writeRuns_oracle rfl _ _, readRuns_oracle rfl _⟩,
    _, _, 0xF, writeRuns_oracle rfl _ _, readRuns_oracle rfl _⟩
/-- PseudoOperationsExpand: each operation returning, and raising; the last clause's three cases. -/
theorem witness_expansions :
    shows State.results (exec .readStatusRegister (live (statusAnswers 0x01 []))) = some [.returned (.byte 0x01)] ∧
      shows State.results (exec .readStatusRegister (live (statusAnswers 0xFE []))) =
        some [.returned (.byte 0xFE)] ∧
      shows State.results (exec .readStatusRegister (live [0x9, 0x1])) =
        some [.raised (.syncError .rsync .memoryWrite tp.statusAddr 0x1)] ∧
      shows State.results (exec .identify (live idAnswers)) = some [.returned (.ids 0xBF 0x60)] ∧
      shows State.results (exec .identify (live [0x9, 0x1])) =
        some [.raised (.syncError .rsync .memoryRead tp.mfrIdAddr 0x1)] ∧
      shows State.results (exec .unlockForWrite
        { live [0x9, 0x0, 0xF, 0x9] with device := some ⟨0x01, 0x02, [], [⟨0xAA, 0x0⟩], []⟩ }) =
        some [.returned .unit] ∧
      shows State.results (exec .unlockForWrite
        { live [0x9, 0x1] with device := some ⟨0x01, 0x02, [], [⟨0xAA, 0x0⟩], []⟩ }) =
        some [.raised (.syncError .rsync .memoryWrite 0x0 0x1)] ∧
      (live []).params.pollLimit = none := by decide
/-- WaitReturnsAtTheFirstClearStatus: two polls. -/
theorem witness_poll :
    { live (statusAnswers 0x01 (statusAnswers 0x00 [])) with calls := [[0x4, 0x4]] }.ready = true ∧
      decode [0x4, 0x4] = .ok .waitForWriteComplete ∧
      ∃ t, pollRuns 0 ([0x01] ++ [0x00])
        { live (statusAnswers 0x01 (statusAnswers 0x00 [])) with calls := [[0x4, 0x4]] } t :=
  ⟨by decide, by decide, _, _, ⟨_, 0xF, writeRuns_oracle rfl _ _, readRuns_oracle rfl _⟩,
    ⟨_, 0xF, writeRuns_oracle rfl _ _, readRuns_oracle rfl _⟩⟩
/-- StuckBusyBitPollsForever. -/
theorem witness_stuck :
    { onReference [] 0x01 with calls := [[0x4, 0x4]] }.ready = true ∧
      (onReference [] 0x01).params.pollLimit = none ∧ (0x01#8).getLsbD 0 = true := by decide
/-- DeviceOperationClockCounts. -/
theorem witness_device_counts :
    shows State.results (exec .readDeviceIds (live idAnswers)) = some [.returned (.ids 0xBF 0x60)] ∧
      shows State.results (exec .identify (live idAnswers)) = some [.returned (.ids 0xBF 0x60)] ∧
      shows State.results (exec .readStatusRegister (live (statusAnswers 0x01 []))) =
        some [.returned (.byte 0x01)] ∧
      shows State.results (exec (.executeUnlockSequence ⟨0x01, 0x02, [], [⟨0xAA, 0x0⟩], []⟩ true)
        (live [0x9, 0x0, 0xF, 0x9])) = some [.returned .unit] := by decide
/-- ReferenceTargetReadsBackWhatWasWritten and ReferenceTargetStoresOnlyTheBytesWritten: the last bytes of
the address space, wrapping, and the status command. -/
theorem witness_reference :
    (onReference [(0x10, 0x5A)] 0x00).ready = true ∧ Memory.wf [(0x10, 0x5A)] ∧
      (∀ k < (dataBytes (.two 0x5A 0xC3)).length,
        frameAddr 0xFFFFFFFF + BitVec.ofNat 28 k ≠ frameAddr tp.mfrIdAddr ∧
        frameAddr 0xFFFFFFFF + BitVec.ofNat 28 k ≠ frameAddr tp.chipIdAddr ∧
        frameAddr 0xFFFFFFFF + BitVec.ofNat 28 k ≠ frameAddr tp.statusAddr) ∧
      frameAddr 0x0FBC0002 = frameAddr tp.statusAddr ∧
      ¬(frameAddr 0x00400010 = frameAddr tp.statusAddr) ∧
      { live [] with target := .reference (.initial 0xBF 0x60) }.ready = true ∧
      frameAddr 0x00400010 ≠ frameAddr tp.mfrIdAddr ∧ frameAddr 0x00400010 ≠ frameAddr tp.chipIdAddr := by
  decide
/-- OtherOperationsLeaveTargetMemory: an operation that reads and one that writes the status command. -/
theorem witness_memory_kept :
    storesToTarget (.readCycle 0x0 1) = false ∧
      (∃ t, exec (.readCycle 0x0 1) (onReference [(0x10, 0x5A)] 0x00) = .next t) ∧
      storesToTarget .readStatusRegister = false ∧
      ∃ t, exec .readStatusRegister (onReference [(0x10, 0x5A)] 0x00) = .next t :=
  ⟨rfl, ⟨_, rfl⟩, rfl, _, rfl⟩
/-- ResetIsProcessStart. -/
theorem witness_reset : busOperation .readDeviceIds = true := by decide
/-- A good state with a line to run; StepKeepsGoodStates and StepContinuesTheRecord. -/
def waiting : State := { State.processStart tp false (.oracle []) [] with calls := [[0x1, 0x4]] }
theorem witness_good : waiting.Inv ∧ ∃ t, step waiting = .next t :=
  ⟨⟨by decide, by decide, by decide, by decide, by simp [waiting, State.processStart], by decide, by decide,
    by decide, by decide, by decide, by decide, by decide, trivial, trivial⟩, _, rfl⟩
/-- DesyncIsSetBySyncErrorOnly: each clause. -/
theorem witness_desync :
    (live [0x9, 0x1]).desync = false ∧ (∃ t, exec (.readCycle 0x0 1) (live [0x9, 0x1]) = .next t) ∧
      lost.desync = true ∧ (∃ t, exec .busInit lost = .next t) ∧ lost.prepared = true ∧
      busOperation .unlockForRead = true :=
  ⟨rfl, ⟨_, rfl⟩, rfl, ⟨_, rfl⟩, rfl, rfl⟩
/-- DeviceIsWrittenByIdentifyAndBusInit. -/
theorem witness_device : (∃ t, exec .identify (live idAnswers) = .next t) ∧
    ∃ t, exec .readNibble (live []) = .next t := ⟨⟨_, rfl⟩, _, rfl⟩
/-- ReportsComeFromReadCycles. -/
theorem witness_reports : readsTarget (.writeCycle 0x0 [0xAA]) = false ∧
    ∃ t, exec (.writeCycle 0x0 [0xAA]) (live [0x9, 0x1]) = .next t := ⟨rfl, _, rfl⟩
/-- WorkingRegistersCarryNothingOver: states that differ in every working register. -/
theorem witness_forget :
    (live [0x9, 0x1]).forgetWork =
        { live [0x9, 0x1] with
          addr := 0x1, len := 128, kind := .memoryWrite, tx := [0x01], rx := [0x02], idx := 127
          lo := 0xF, sample := 0xF, warning := true }.forgetWork ∧
      ∃ t, exec (.readCycle 0x0 1) (live [0x9, 0x1]) = .next t := ⟨by decide, _, rfl⟩

end Sys2Proof.Tests
end

section
/-! A step of the machine, and what no operation undoes: the logs grow, the configuration and the caller's
lines stay, and a line is used up once its operation has ended. -/

namespace Sys2Proof.Machine

/-! ### One step -/

/-- What a step that answers a next state has done: waited without a line, or run the operation of the
caller's first line and retired it (R90, R234). -/
theorem step_next_cases {s t : State} (h : step s = .next t) :
    (s.calls = [] ∧ t = s) ∨
    ∃ line rest i u, s.calls = line :: rest ∧ decode line = .ok i ∧ exec i s = .next u ∧ t = retire u := by
  cases hc : s.calls with
  | nil =>
    simp only [step, nextCall, hc, Host.Outcome.next.injEq] at h
    exact .inl ⟨rfl, h.symm⟩
  | cons line rest =>
    cases hd : decode line with
    | error e => simp [step, nextCall, hc, hd] at h
    | ok i =>
      cases hx : exec i s with
      | next u =>
        simp only [step, nextCall, hc, hd, hx, Host.Outcome.next.injEq] at h
        exact .inr ⟨line, rest, i, u, rfl, hd, hx, h.symm⟩
      | fault f => simp [step, nextCall, hc, hd, hx] at h
      | refused r => simp [step, nextCall, hc, hd, hx] at h

theorem retire_of_polls_none {s : State} (h : s.polls = none) :
    retire s = { s with calls := s.calls.tail } := by simp [retire, h]

theorem retire_of_polls_some {s : State} {n : Nat} (h : s.polls = some n) : retire s = s := by
  simp [retire, h]

/-! ### What no operation undoes -/

/-- `Continues` for an operation, which leaves the caller's lines alone: a step retires them. -/
structure RunsOn (s t : State) : Prop where
  trace : s.trace <+: t.trace
  nibbles : s.nibbles <+: t.nibbles
  reports : s.reports <+: t.reports
  results : s.results <+: t.results
  params : t.params = s.params
  diagnostic : t.diagnostic = s.diagnostic
  calls : t.calls = s.calls

theorem RunsOn.refl (s : State) : RunsOn s s :=
  ⟨List.prefix_refl _, List.prefix_refl _, List.prefix_refl _, List.prefix_refl _, rfl, rfl, rfl⟩

theorem RunsOn.trans {s t u : State} (h : RunsOn s t) (k : RunsOn t u) : RunsOn s u :=
  ⟨h.trace.trans k.trace, h.nibbles.trans k.nibbles, h.reports.trans k.reports,
    h.results.trans k.results, k.params.trans h.params, k.diagnostic.trans h.diagnostic,
    k.calls.trans h.calls⟩

/-- What only adds events and entries runs on. -/
theorem RunsOn.of_logs {s t : State} {es : List LineEvent} {ns : List NibbleEvent} {rs : List Report}
    (htrace : t.trace = s.trace ++ es) (hnibbles : t.nibbles = s.nibbles ++ ns)
    (hreports : t.reports = s.reports ++ rs) (hresults : t.results = s.results)
    (hparams : t.params = s.params) (hdiag : t.diagnostic = s.diagnostic) (hcalls : t.calls = s.calls) :
    RunsOn s t :=
  ⟨htrace ▸ List.prefix_append _ _, hnibbles ▸ List.prefix_append _ _, hreports ▸ List.prefix_append _ _,
    hresults ▸ List.prefix_refl _, hparams, hdiag, hcalls⟩

/-- A cycle that runs to its end or is aborted only adds to the logs (R34 to R36). -/
theorem readCycle_runsOn (a : Addr) (n : Nat) (s : State) : (readCycle a n s).All (RunsOn s) :=
  readCycle_keeps (.refl s)
    (fun _ _ _ _ _ _ _ _ _ => .of_logs rfl (List.append_assoc ..) (List.append_nil _).symm rfl rfl rfl rfl)
    (fun _ _ _ _ _ _ _ ⟨_, _, _, _, _, _, hu⟩ => hu ▸
      .of_logs rfl (List.append_assoc ..) (List.append_assoc ..) rfl rfl rfl rfl)

theorem writeCycle_runsOn (a : Addr) (bytes : List Byte) (s : State) :
    (writeCycle a bytes s).All (RunsOn s) :=
  writeCycle_keeps (.refl s)
    (fun _ _ _ _ _ _ _ => .of_logs rfl (List.append_assoc ..) (List.append_nil _).symm rfl rfl rfl rfl)
    (fun _ _ _ _ ⟨_, _, _, _, hu⟩ => hu ▸
      .of_logs rfl (List.append_assoc ..) (List.append_nil _).symm rfl rfl rfl rfl)

theorem Ran.All.imp {α : Type} {P Q : State → Prop} {r : Ran α} (h : r.All P) (hPQ : ∀ s, P s → Q s) :
    r.All Q := by
  cases r with
  | ok a s => exact hPQ s h
  | raised e s => exact hPQ s h
  | faulted f => trivial

/-- Each part of an operation runs on from where it starts. -/
theorem keptBy_runsOn (i : Instr) (s : State) : KeptBy i (RunsOn s) where
  read _ a n u h := (readCycle_runsOn a n u).imp fun _ => h.trans
  write _ a bs u h := (writeCycle_runsOn a bs u).imp fun _ => h.trans
  device _ _ _ _ h := ⟨h.trace, h.nibbles, h.reports, h.results, h.params, h.diagnostic, h.calls⟩
  poll _ _ u h := h.trans (.of_logs (ns := []) (rs := []) rfl (by simp) (by simp) rfl rfl rfl rfl)
  record o _ h := ⟨h.trace, h.nibbles, h.reports, h.results.trans (List.prefix_append _ _), h.params,
    h.diagnostic, h.calls⟩
  setLinesOutput _ u h := h.trans
    (.of_logs (ns := []) (rs := []) (setLinesOutput_trace u) (by simp) (by simp) rfl rfl rfl rfl)
  setLinesInput z _ u h := h.trans (.of_logs (ns := []) (rs := []) (setLinesInput_trace u z)
    (by simp) (by simp) (by simp) (by simp) (by simp) (by simp))
  assertFrame f _ u h := h.trans
    (.of_logs (ns := []) (rs := []) (assertFrame_trace u f) (by simp) (by simp) rfl rfl rfl rfl)
  setClock l _ u h := h.trans
    (.of_logs (ns := []) (rs := []) (setClock_trace u l) (by simp) (by simp) rfl rfl rfl rfl)
  busInit _ u h := h.trans (busInit_eq u ▸
    .of_logs (ns := []) (rs := []) rfl (by simp) (by simp) rfl rfl rfl rfl)
  writeNibble v f _ u h := h.trans
    (.of_logs (rs := []) (writeNibble_trace u v f) rfl (by simp) rfl rfl rfl rfl)
  readNibble _ u h := h.trans
    (.of_logs (rs := []) (readNibble_trace u) (readNibble_nibbles u) (by simp) rfl rfl rfl rfl)

/-- Every operation runs on: logs and results grow, configuration and lines stay. -/
theorem exec_runsOn {i : Instr} {s t : State} (h : exec i s = .next t) : RunsOn s t :=
  exec_keeps (keptBy_runsOn i s) (.refl s) h

/-- Settles O1: an operation leaves the caller's lines alone, so retiring takes off the one it ran. -/
theorem stepRunsTheDecodedLine : Obligations.StepRunsTheDecodedLine := by
  intro s line rest i hc hd
  cases hx : exec i s with
  | next t =>
    have htail : t.calls.tail = rest := by rw [(exec_runsOn hx).calls, hc]; rfl
    cases hp : t.polls <;> simp [step, nextCall, hc, hd, hx, retire, hp, htail]
  | fault f => simp [step, nextCall, hc, hd, hx]
  | refused r => simp [step, nextCall, hc, hd, hx]

/-- An operation that runs on, and then the retiring of its line, continue the record. -/
theorem RunsOn.continues_retire {s t : State} (h : RunsOn s t) : Continues s (retire t) := by
  cases hp : t.polls with
  | none =>
    rw [retire_of_polls_none hp]
    exact ⟨h.trace, h.nibbles, h.reports, h.results, h.params, h.diagnostic,
      h.calls ▸ List.tail_suffix _⟩
  | some n =>
    rw [retire_of_polls_some hp]
    exact ⟨h.trace, h.nibbles, h.reports, h.results, h.params, h.diagnostic, h.calls ▸ List.suffix_refl _⟩

/-- Settles O55. -/
theorem stepContinuesTheRecord : Obligations.StepContinuesTheRecord := by
  intro s t h
  rcases step_next_cases h with ⟨-, rfl⟩ | ⟨line, rest, i, u, -, -, hx, rfl⟩
  · have hsame := RunsOn.refl t
    exact ⟨hsame.trace, hsame.nibbles, hsame.reports, hsame.results, rfl, rfl, List.suffix_refl _⟩
  · exact (exec_runsOn hx).continues_retire

end Sys2Proof.Machine
end

section
/-! Which operations write the device and the report log, and which fault. -/

namespace Sys2Proof.Machine

/-! ### The device -/

theorem readCycle_device {a : Addr} {n : Nat} {s : State} :
    (readCycle a n s).All fun t => t.device = s.device :=
  readCycle_keeps rfl (fun _ _ _ _ _ _ _ _ _ => rfl) fun _ _ _ _ _ _ _ hu => (readRuns_same hu).device

theorem writeCycle_device {a : Addr} {bytes : List Byte} {s : State} :
    (writeCycle a bytes s).All fun t => t.device = s.device :=
  writeCycle_keeps rfl (fun _ _ _ _ _ _ _ => rfl) fun _ _ _ _ hu => (writeRuns_same hu).device

/-- A property of the device is kept by every operation but those that write it. -/
theorem keptBy_device {i : Instr} {P : Option DeviceDescriptor → Prop} (hi : i ≠ .identify)
    (hb : i ≠ .busInit) : KeptBy i fun t => P t.device where
  read _ _ _ _ h := readCycle_device.imp fun _ hu => hu ▸ h
  write _ _ _ _ h := writeCycle_device.imp fun _ hu => hu ▸ h
  device hid := absurd hid hi
  poll _ _ _ h := h
  record _ _ h := h
  setLinesOutput _ _ h := h
  setLinesInput z _ u h := by rwa [setLinesInput_device]
  assertFrame _ _ _ h := h
  setClock _ _ _ h := h
  busInit hbi := absurd hbi hb
  writeNibble _ _ _ _ h := h
  readNibble _ _ h := h

/-- `identify` leaves the device as it was, or as a look-up in the registry leaves it (R173). -/
theorem keptBy_identify_device (s : State) : KeptBy .identify fun t => t.params = s.params ∧
    (t.device = s.device ∨ t.device = none ∨ ∃ d ∈ s.params.registry, t.device = some d) where
  read _ a n u h := by
    refine readCycle_keeps h (fun _ _ _ _ _ _ _ _ _ => h) fun _ _ v _ _ _ _ hv => ?_
    rwa [(readRuns_same hv).params, (readRuns_same hv).device]
  device _ u d hd h := ⟨h.1, .inr (hd.imp_right fun ⟨e, he, hde⟩ => ⟨e, h.1 ▸ he, hde⟩)⟩
  record _ _ h := h
  write hw := nomatch hw
  poll hp := nomatch hp
  setLinesOutput hs := nomatch hs
  setLinesInput _ hs := nomatch hs
  assertFrame _ hs := nomatch hs
  setClock _ hs := nomatch hs
  busInit hs := nomatch hs
  writeNibble _ _ hs := nomatch hs
  readNibble hs := nomatch hs

/-- Settles O58. -/
theorem deviceIsWrittenByIdentifyAndBusInit : Obligations.DeviceIsWrittenByIdentifyAndBusInit := by
  intro i s t h
  refine ⟨fun hi hb => ?_, ?_, ?_⟩
  · exact exec_keeps (keptBy_device (P := (· = s.device)) hi hb) rfl h
  · rintro rfl
    obtain rfl := Host.Outcome.next.inj h
    rw [record_device, busInit_eq]
  · rintro rfl
    exact (exec_keeps (keptBy_identify_device s) ⟨rfl, .inl rfl⟩ h).2

/-! ### The report log -/

theorem writeCycle_reports {a : Addr} {bytes : List Byte} {s : State} :
    (writeCycle a bytes s).All fun t => t.reports = s.reports :=
  writeCycle_keeps rfl (fun _ _ _ _ _ _ _ => rfl) fun _ _ _ _ ⟨_, _, _, _, hu⟩ => hu ▸ rfl

/-- Every part of an operation but a read cycle leaves the report log (R35, R135). -/
theorem keptBy_reports {i : Instr} (hi : readsTarget i = false) (rs : List Report) :
    KeptBy i fun t => t.reports = rs where
  read hr := by simp [hi] at hr
  write _ _ _ _ h := writeCycle_reports.imp fun _ hu => hu.trans h
  device _ _ _ _ h := h
  poll _ _ _ h := h
  record _ _ h := h
  setLinesOutput _ _ h := h
  setLinesInput z _ u h := by rwa [setLinesInput_reports]
  assertFrame _ _ _ h := h
  setClock _ _ _ h := h
  busInit _ u h := by rwa [busInit_eq]
  writeNibble _ _ _ _ h := h
  readNibble _ _ h := h

/-- Settles O59. -/
theorem reportsComeFromReadCycles : Obligations.ReportsComeFromReadCycles :=
  fun _ s _ hi h => exec_keeps (keptBy_reports hi s.reports) rfl h

/-! ### The two faults -/

section

variable {s : State} {f : Fault}

theorem readCycle_of_faulted (h : readyChecks s = .faulted f) (a : Addr) (n : Nat) :
    readCycle a n s = .faulted f := by simp [readCycle, entryChecks, h, Ran.bind]

theorem writeCycle_of_faulted (h : readyChecks s = .faulted f) (a : Addr) (bytes : List Byte) :
    writeCycle a bytes s = .faulted f := by simp [writeCycle, entryChecks, h, Ran.bind]

theorem readDeviceIds_of_faulted (h : readyChecks s = .faulted f) : readDeviceIds s = .faulted f := by
  rw [readDeviceIds, readCycle_of_faulted h]; rfl

theorem readStatusRegister_of_faulted (h : readyChecks s = .faulted f) :
    readStatusRegister s = .faulted f := by
  rw [readStatusRegister, writeCycle_of_faulted h]; rfl

theorem unlock_of_faulted (h : readyChecks s = .faulted f) (forWrite : Bool) :
    unlock forWrite s = .faulted f := by rw [unlock, h]; rfl

/-- A sequence with a pair makes the checks in its first cycle (R170, log 12). -/
theorem runSequence_of_faulted (h : readyChecks s = .faulted f) {ps : List CmdPair} (hps : ps ≠ []) :
    runSequence ps s = .faulted f := by
  cases ps with
  | nil => exact absurd rfl hps
  | cons p ps => rw [runSequence, writeCycle_of_faulted h]; rfl

/-- A bus operation makes the two checks before anything else (R206, R207, R212). -/
theorem exec_of_faulted (h : readyChecks s = .faulted f) {i : Instr} (hi : busOperation i = true) :
    exec i s = .fault f := by
  have hread := readCycle_of_faulted h
  have hwrite := writeCycle_of_faulted h
  cases i with
  | readCycle a n => simp [exec, execReadCycle, hread, finish]
  | writeCycle a bytes => simp [exec, execWriteCycle, hwrite, finish]
  | readDeviceIds => simp [exec, execReadDeviceIds, readDeviceIds_of_faulted h, finish]
  | executeUnlockSequence d forWrite =>
    have hne : sequenceOf d forWrite ≠ [] := by simpa [busOperation] using hi
    simp [exec, execExecuteUnlockSequence, executeUnlockSequence, runSequence_of_faulted h hne, finish]
  | readStatusRegister => simp [exec, execReadStatusRegister, readStatusRegister_of_faulted h, finish]
  | waitForWriteComplete => simp [exec, execWaitForWriteComplete, readStatusRegister_of_faulted h]
  | identify => simp [exec, execIdentify, identify, readDeviceIds_of_faulted h, Ran.bind, finish]
  | unlockForWrite => simp [exec, execUnlockForWrite, unlock_of_faulted h, finish]
  | unlockForRead => simp [exec, execUnlockForRead, unlock_of_faulted h, finish]
  | readBlock a n => simp [exec, execReadBlock, readBlock, hread, Ran.bind, finish]
  | writeBlock a bytes => simp [exec, execWriteBlock, writeBlock, hwrite, finish]
  | readFrame a size => simp [exec, execReadFrame, hread, finish]
  | writeFrame a data => simp [exec, execWriteFrame, hwrite, finish]
  | _ => cases hi

end

theorem readyChecks_of_notPrepared {s : State} (h : s.prepared = false) :
    readyChecks s = .faulted .notPrepared := by simp [readyChecks, h]

theorem readyChecks_of_desynced {s : State} (hp : s.prepared = true) (hd : s.desync = true) :
    readyChecks s = .faulted .busDesynced := by simp [readyChecks, hp, hd]

theorem readyChecks_of_ready {s : State} (hp : s.prepared = true) (hd : s.desync = false) :
    readyChecks s = .ok () s := by simp [readyChecks, hp, hd]

theorem readCycle_of_badLength {s : State} {n : Nat} (hs : readyChecks s = .ok () s)
    (hn : sizeCode n .memoryRead = none) (a : Addr) :
    readCycle a n s = .raised (.badBlockLength .memoryRead n) s := by
  simp [readCycle, entryChecks, hs, raiseSizeCode, hn, Ran.bind]

theorem writeCycle_of_badLength {s : State} {bytes : List Byte} (hs : readyChecks s = .ok () s)
    (hn : sizeCode bytes.length .memoryWrite = none) (a : Addr) :
    writeCycle a bytes s = .raised (.badBlockLength .memoryWrite bytes.length) s := by
  simp [writeCycle, entryChecks, hs, raiseSizeCode, hn, Ran.bind]

/-- `sizeCode` neither faults nor is refused: off its domain it raises an error (R126, R127). -/
theorem exec_sizeCode_next (n : Nat) (k : BusCycleKind) (s : State) :
    ∃ t, exec (.sizeCode n k) s = .next t := by
  simp only [exec, execSizeCode, raiseSizeCode]
  cases sizeCode n k <;> exact ⟨_, rfl⟩

/-- Settles O52. -/
theorem resetIsProcessStart : Obligations.ResetIsProcessStart :=
  ⟨rfl, rfl, rfl, rfl, rfl, rfl, rfl, rfl,
    fun _ hi => exec_of_faulted (readyChecks_of_notPrepared rfl) hi,
    fun _ _ => ⟨_, rfl⟩, fun n k => exec_sizeCode_next n k _⟩

end Sys2Proof.Machine
end

section
/-! Two runs of one operation in lockstep. Where each part of an operation takes related states to the
same end and related states, so does the operation. With equality as the relation this says what each end of
one run leaves. -/

namespace Sys2Proof.Machine

/-! ### Ends in lockstep -/

/-- Two runs with the same end: the same result on states that `P` relates, the same error on states that
`Q` relates for that error, or the same fault. -/
inductive Ran.Match {α : Type} (P : State → State → Prop) (Q : OpError → State → State → Prop) :
    Ran α → Ran α → Prop
  | ok (a : α) {s t : State} (h : P s t) : Match P Q (.ok a s) (.ok a t)
  | raised (e : OpError) {s t : State} (h : Q e s t) : Match P Q (.raised e s) (.raised e t)
  | faulted (f : Fault) : Match P Q (.faulted f) (.faulted f)

/-- `Ran.Match` for the steps of two operations; `polling` is a wait that goes on. -/
inductive StepMatch (P : State → State → Prop) (Q : OpError → State → State → Prop) :
    Host.Outcome State Fault Refusal → Host.Outcome State Fault Refusal → Prop
  | returned (v : OpValue) {s t : State} (h : P s t) :
    StepMatch P Q (.next (record (.returned v) s)) (.next (record (.returned v) t))
  | raised (e : OpError) {s t : State} (h : Q e s t) :
    StepMatch P Q (.next (record (.raised e) s)) (.next (record (.raised e) t))
  | polling (n : Nat) {s t : State} (h : P s t) :
    StepMatch P Q (.next (setPolls n (delay .poll s))) (.next (setPolls n (delay .poll t)))
  | fault (f : Fault) : StepMatch P Q (.fault f) (.fault f)

/-- A `SyncError` (R202, R203). -/
def OpError.isSync : OpError → Bool
  | .syncError _ _ _ _ => true
  | .badBlockLength _ _ => false
  | .unsupportedDevice => false
  | .pollTimeout _ _ => false

/-- The parts of operations run in lockstep on states that `P` relates. -/
structure Lockstep (P : State → State → Prop) (Q : OpError → State → State → Prop) : Prop where
  read : ∀ a n s t, P s t → (readCycle a n s).Match P Q (readCycle a n t)
  write : ∀ a bytes s t, P s t → (writeCycle a bytes s).Match P Q (writeCycle a bytes t)
  ready : ∀ s t, P s t → (readyChecks s).Match P Q (readyChecks t)
  plainError : ∀ e s t, e.isSync = false → P s t → Q e s t
  params : ∀ s t, P s t → s.params = t.params
  device : ∀ s t, P s t → s.device = t.device
  polls : ∀ s t, P s t → s.polls = t.polls
  setDevice : ∀ d s t, P s t → P (setDevice d s) (setDevice d t)
  setLinesOutput : ∀ s t, P s t → P (setLinesOutput s) (setLinesOutput t)
  setLinesInput : ∀ z s t, P s t → P (setLinesInput z s) (setLinesInput z t)
  assertFrame : ∀ f s t, P s t → P (assertFrame f s) (assertFrame f t)
  setClock : ∀ l s t, P s t → P (setClock l s) (setClock l t)
  busInit : ∀ s t, P s t → P (busInit s) (busInit t)
  writeNibble : ∀ v f s t, P s t → P (writeNibble v f s) (writeNibble v f t)
  readNibble : ∀ s t, P s t →
    P (readNibble s) (readNibble t) ∧ (readNibble s).sample = (readNibble t).sample

section

variable {P : State → State → Prop} {Q : OpError → State → State → Prop}

theorem Ran.Match.bind {α β : Type} {r q : Ran α} {k : α → State → Ran β} (h : r.Match P Q q)
    (hk : ∀ a s t, P s t → (k a s).Match P Q (k a t)) : (r.bind k).Match P Q (q.bind k) := by
  cases h with
  | ok a h => exact hk a _ _ h
  | raised e h => exact .raised e h
  | faulted f => exact .faulted f

theorem Ran.Match.finish {α : Type} {r q : Ran α} (w : α → OpValue) (h : r.Match P Q q) :
    StepMatch P Q (finish w r) (finish w q) := by
  cases h with
  | ok a h => exact .returned (w a) h
  | raised e h => exact .raised e h
  | faulted f => exact .fault f

/-- What a next state is, at the first of two steps that match. -/
theorem StepMatch.of_next {o o' : Host.Outcome State Fault Refusal} {t : State} (h : StepMatch P Q o o')
    (ht : o = .next t) :
    (∃ v u u', P u u' ∧ t = record (.returned v) u) ∨ (∃ e u u', Q e u u' ∧ t = record (.raised e) u) ∨
      ∃ n u u', P u u' ∧ t = setPolls n (delay .poll u) := by
  cases h with
  | returned v h => exact .inl ⟨v, _, _, h, (Host.Outcome.next.inj ht).symm⟩
  | raised e h => exact .inr (.inl ⟨e, _, _, h, (Host.Outcome.next.inj ht).symm⟩)
  | polling n h => exact .inr (.inr ⟨n, _, _, h, (Host.Outcome.next.inj ht).symm⟩)
  | fault f => cases ht

variable (k : Lockstep P Q) {s t : State}

include k

theorem Lockstep.raiseSizeCode (h : P s t) (n : Nat) (kind : BusCycleKind) :
    (raiseSizeCode n kind s).Match P Q (raiseSizeCode n kind t) := by
  unfold Machine.raiseSizeCode
  cases sizeCode n kind with
  | none => exact .raised _ (k.plainError _ _ _ rfl h)
  | some c => exact .ok c h

theorem Lockstep.readDeviceIds (h : P s t) : (readDeviceIds s).Match P Q (readDeviceIds t) := by
  rw [Machine.readDeviceIds, Machine.readDeviceIds, k.params s t h]
  refine (k.read _ _ _ _ h).bind fun m u v huv => ?_
  rw [k.params u v huv]
  exact (k.read _ _ _ _ huv).bind fun c _ _ h => .ok _ h

theorem Lockstep.runSequence (ps : List CmdPair) (h : P s t) :
    (runSequence ps s).Match P Q (runSequence ps t) := by
  induction ps generalizing s t with
  | nil => exact .ok () h
  | cons p ps ih => exact (k.write _ _ _ _ h).bind fun _ _ _ huv => ih huv

theorem Lockstep.readStatusRegister (h : P s t) :
    (readStatusRegister s).Match P Q (readStatusRegister t) := by
  rw [Machine.readStatusRegister, Machine.readStatusRegister, k.params s t h]
  refine (k.write _ _ _ _ h).bind fun _ u v huv => ?_
  rw [k.params u v huv]
  exact (k.read _ _ _ _ huv).bind fun b _ _ h => .ok _ h

theorem Lockstep.identify (h : P s t) : (identify s).Match P Q (identify t) := by
  refine (k.readDeviceIds h).bind fun ids u v huv => ?_
  rw [k.params u v huv]
  exact .ok _ (k.setDevice _ _ _ huv)

theorem Lockstep.unlock (h : P s t) (forWrite : Bool) :
    (unlock forWrite s).Match P Q (unlock forWrite t) := by
  refine (k.ready _ _ h).bind fun _ u v huv => ?_
  rw [k.device u v huv]
  cases v.device with
  | none => exact .raised _ (k.plainError _ _ _ rfl huv)
  | some d => exact k.runSequence _ huv

theorem Lockstep.afterPoll (h : P s t) (n : Nat) (status : Byte) :
    StepMatch P Q (afterPoll n status s) (afterPoll n status t) := by
  unfold Machine.afterPoll
  rw [k.params s t h]
  split_ifs
  · exact .returned .unit h
  · exact .raised _ (k.plainError _ _ _ rfl h)
  · exact .polling _ h

theorem Lockstep.waitForWriteComplete (h : P s t) :
    StepMatch P Q (execWaitForWriteComplete s) (execWaitForWriteComplete t) := by
  unfold execWaitForWriteComplete
  rw [k.polls s t h]
  have hread := k.readStatusRegister h
  generalize Machine.readStatusRegister s = r at hread ⊢
  generalize Machine.readStatusRegister t = q at hread ⊢
  cases hread with
  | ok b huv => exact k.afterPoll huv _ b
  | raised e huv => exact .raised e huv
  | faulted f => exact .fault f

/-- What runs in lockstep part by part, runs in lockstep as an operation. -/
theorem Lockstep.exec (h : P s t) (i : Instr) : StepMatch P Q (exec i s) (exec i t) := by
  cases i with
  | setLinesOutput => exact .returned _ (k.setLinesOutput _ _ h)
  | setLinesInput z => exact .returned _ (k.setLinesInput z _ _ h)
  | assertFrame a => exact .returned _ (k.assertFrame a _ _ h)
  | setClock l => exact .returned _ (k.setClock l _ _ h)
  | busInit => exact .returned _ (k.busInit _ _ h)
  | writeNibble v f => exact .returned _ (k.writeNibble v f _ _ h)
  | readNibble =>
    obtain ⟨hP, hsample⟩ := k.readNibble s t h
    rw [Machine.exec, Machine.exec, execReadNibble, execReadNibble, hsample]
    exact .returned _ hP
  | sizeCode n kind => exact (k.raiseSizeCode h n kind).finish _
  | readCycle a n => exact (k.read a n _ _ h).finish _
  | writeCycle a bytes => exact (k.write a bytes _ _ h).finish _
  | findDevice m c =>
    rw [Machine.exec, Machine.exec, execFindDevice, execFindDevice, k.params s t h]
    exact .returned _ h
  | readDeviceIds => exact (k.readDeviceIds h).finish _
  | executeUnlockSequence d f => exact (k.runSequence _ h).finish _
  | readStatusRegister => exact (k.readStatusRegister h).finish _
  | waitForWriteComplete => exact k.waitForWriteComplete h
  | identify => exact (k.identify h).finish _
  | unlockForWrite => exact (k.unlock h true).finish _
  | unlockForRead => exact (k.unlock h false).finish _
  | readBlock a n => exact ((k.read a n _ _ h).bind fun r _ _ huv => .ok r.1 huv).finish _
  | writeBlock a bytes => exact (k.write a bytes _ _ h).finish _
  | readFrame a size => exact (k.read _ _ _ _ h).finish _
  | writeFrame a data => exact (k.write _ _ _ _ h).finish _

end

/-! ### The working registers (R25, R26) -/

/-- States alike but for the working registers. -/
def AlikeButWork (s t : State) : Prop := s.forgetWork = t.forgetWork

/-- What reads no working register reads the same of both states. -/
theorem AlikeButWork.congr {β : Type} {s t : State} (h : AlikeButWork s t) (g : State → β)
    (hg : ∀ u, g u.forgetWork = g u) : g s = g t := by
  rw [← hg s, ← hg t, show s.forgetWork = t.forgetWork from h]

/-- What writes no other field after a working register takes such states to such states. -/
theorem AlikeButWork.map {s t : State} (h : AlikeButWork s t) (f : State → State)
    (hf : ∀ u, (f u.forgetWork).forgetWork = (f u).forgetWork) : AlikeButWork (f s) (f t) :=
  h.congr (fun u => (f u).forgetWork) hf

section

variable {s t : State} (h : AlikeButWork s t)

include h

theorem AlikeButWork.prepared : s.prepared = t.prepared := h.congr _ fun _ => rfl
theorem AlikeButWork.desync : s.desync = t.desync := h.congr _ fun _ => rfl
theorem AlikeButWork.diagnostic : s.diagnostic = t.diagnostic := h.congr _ fun _ => rfl

theorem AlikeButWork.readAnswers (a : Addr) (n : Nat) (vs : List Nibble) (tgt : Target) :
    s.readAnswers a n vs tgt = t.readAnswers a n vs tgt :=
  h.congr (fun u => u.readAnswers a n vs tgt) fun _ => rfl

theorem AlikeButWork.writeAnswers (a : Addr) (bytes : List Byte) (vs : List Nibble) (tgt : Target) :
    s.writeAnswers a bytes vs tgt = t.writeAnswers a bytes vs tgt :=
  h.congr (fun u => u.writeAnswers a bytes vs tgt) fun _ => rfl

/-- The two checks read no working register. -/
theorem AlikeButWork.readyChecks_match :
    (readyChecks s).Match AlikeButWork (fun _ => AlikeButWork) (readyChecks t) := by
  unfold readyChecks
  rw [h.prepared, h.desync]
  split_ifs
  · exact .faulted _
  · exact .faulted _
  · exact .ok () h

/-- A read cycle reads no working register that it has not loaded itself (R26, R130). -/
theorem AlikeButWork.readCycle_match (a : Addr) (n : Nat) :
    (readCycle a n s).Match AlikeButWork (fun _ => AlikeButWork) (readCycle a n t) := by
  have hp := h.prepared
  have hd := h.desync
  rcases readyChecks_cases s with ⟨hps, hs⟩ | ⟨hps, hds, hs⟩ | ⟨hps, hds, hs⟩
  · rw [readCycle_of_faulted hs, readCycle_of_faulted (readyChecks_of_notPrepared (hp ▸ hps))]
    exact .faulted _
  · rw [readCycle_of_faulted hs, readCycle_of_faulted (readyChecks_of_desynced (hp ▸ hps) (hd ▸ hds))]
    exact .faulted _
  · rw [hp] at hps
    rw [hd] at hds
    cases hc : sizeCode n .memoryRead with
    | none =>
      rw [readCycle_of_badLength hs hc, readCycle_of_badLength (readyChecks_of_ready hps hds) hc]
      exact .raised _ h
    | some c =>
      rcases readCycle_cases a n c s (hp ▸ hps) (hd ▸ hds) hc with
        ⟨x, r, tgt, hdraw, hr, hg, hrun⟩ | ⟨x, r, bytes, u, y, tgt, rfl, hdraw, hr, hrun⟩ <;> rw [hrun]
      · have hans : s.readAnswers a n [x, r] tgt := by rw [State.readAnswers, codeOf_eq hc]; exact hdraw
        have hr0 : r ≠ 0x0 := fun h0 => by simp [(rsyncAccepted_iff r).2 h0] at hr
        rw [readCycle_of_badSync hps hds hc (h.readAnswers .. ▸ hans) hr0 (h.diagnostic ▸ hg)]
        exact .raised _ (h.map (readAborted a n x r tgt) fun _ => rfl)
      · have hans : s.readAnswers a bytes.length (readFrameTarget x r bytes u y) tgt := by
          rw [State.readAnswers, codeOf_eq hc, readFrameTarget_length]; exact hdraw
        rw [rsyncAccepted_iff, h.diagnostic] at hr
        rw [readCycle_of_readRuns hps hds hc ⟨x, r, y, tgt, h.readAnswers .. ▸ hans, hr, rfl⟩]
        exact .ok _ (h.map (readDone a bytes x r u y tgt) fun _ => rfl)

/-- A write cycle reads no working register that it has not loaded itself (R26, R135). -/
theorem AlikeButWork.writeCycle_match (a : Addr) (bytes : List Byte) :
    (writeCycle a bytes s).Match AlikeButWork (fun _ => AlikeButWork) (writeCycle a bytes t) := by
  have hp := h.prepared
  have hd := h.desync
  rcases readyChecks_cases s with ⟨hps, hs⟩ | ⟨hps, hds, hs⟩ | ⟨hps, hds, hs⟩
  · rw [writeCycle_of_faulted hs, writeCycle_of_faulted (readyChecks_of_notPrepared (hp ▸ hps))]
    exact .faulted _
  · rw [writeCycle_of_faulted hs, writeCycle_of_faulted (readyChecks_of_desynced (hp ▸ hps) (hd ▸ hds))]
    exact .faulted _
  · rw [hp] at hps
    rw [hd] at hds
    cases hc : sizeCode bytes.length .memoryWrite with
    | none =>
      rw [writeCycle_of_badLength hs hc, writeCycle_of_badLength (readyChecks_of_ready hps hds) hc]
      exact .raised _ h
    | some c =>
      rcases writeCycle_cases a bytes c s (hp ▸ hps) (hd ▸ hds) hc with
        ⟨x, r, tgt, hdraw, hr, hrun⟩ | ⟨x, u, tgt, hdraw, hu, hrun⟩ | ⟨x, y, tgt, hdraw, hrun⟩ <;>
        rw [hrun] <;> rw [← codeOf_eq hc] at hdraw
      · have hans : s.writeAnswers a bytes [x, r] tgt := hdraw
        rw [writeCycle_of_badSync hps hds hc (h.writeAnswers .. ▸ hans) hr]
        exact .raised _ (h.map (writeAborted a bytes [x, r] tgt) fun _ => rfl)
      · have hans : s.writeAnswers a bytes [x, 0x0, u] tgt := hdraw
        rw [writeCycle_of_badTar hps hds hc (h.writeAnswers .. ▸ hans) hu]
        exact .raised _ (h.map (writeAborted a bytes [x, 0x0, u] tgt) fun _ => rfl)
      · have hans : s.writeAnswers a bytes [x, 0x0, 0xF, y] tgt := hdraw
        rw [writeCycle_of_writeRuns hps hds hc ⟨x, y, tgt, h.writeAnswers .. ▸ hans, rfl⟩]
        exact .ok _ (h.map (writeDone a bytes x y tgt) fun _ => rfl)

end

/-- Each part of an operation takes states alike but for the working registers to such states. -/
theorem lockstep_alikeButWork : Lockstep AlikeButWork fun _ => AlikeButWork where
  read a n _ _ h := h.readCycle_match a n
  write a bytes _ _ h := h.writeCycle_match a bytes
  ready _ _ h := h.readyChecks_match
  plainError _ _ _ _ h := h
  params _ _ h := h.congr _ fun _ => rfl
  device _ _ h := h.congr _ fun _ => rfl
  polls _ _ h := h.congr _ fun _ => rfl
  setDevice d _ _ h := h.map (setDevice d) fun _ => rfl
  setLinesOutput _ _ h := h.map Machine.setLinesOutput fun _ => rfl
  setLinesInput z _ _ h := h.map (Machine.setLinesInput z) fun _ => by cases z <;> rfl
  assertFrame f _ _ h := h.map (Machine.assertFrame f) fun _ => rfl
  setClock l _ _ h := h.map (Machine.setClock l) fun _ => rfl
  busInit _ _ h := h.map Machine.busInit fun _ => rfl
  writeNibble v f _ _ h := h.map (Machine.writeNibble v f) fun _ => rfl
  readNibble _ _ h :=
    ⟨h.map Machine.readNibble fun _ => by ext : 1 <;> simp [State.forgetWork],
      h.congr (fun u => (Machine.readNibble u).sample) fun _ => by simp [State.forgetWork]⟩

/-- Steps that end alike: the same fault, or next states alike but for the working registers. -/
theorem StepMatch.alikeButWork {o o' : Host.Outcome State Fault Refusal}
    (h : StepMatch AlikeButWork (fun _ => AlikeButWork) o o') :
    (∀ t, o = .next t → ∃ t', o' = .next t' ∧ AlikeButWork t t') ∧
    (∀ f, o = .fault f → o' = .fault f) := by
  cases h with
  | returned v h =>
    refine ⟨fun t ht => ⟨_, rfl, ?_⟩, fun _ h => nomatch h⟩
    rw [← Host.Outcome.next.inj ht]
    exact h.map (record (.returned v)) fun _ => rfl
  | raised e h =>
    refine ⟨fun t ht => ⟨_, rfl, ?_⟩, fun _ h => nomatch h⟩
    rw [← Host.Outcome.next.inj ht]
    exact h.map (record (.raised e)) fun _ => rfl
  | polling n h =>
    refine ⟨fun t ht => ⟨_, rfl, ?_⟩, fun _ h => nomatch h⟩
    rw [← Host.Outcome.next.inj ht]
    exact h.map (fun u => setPolls n (delay .poll u)) fun _ => rfl
  | fault f => exact ⟨fun _ h => (nomatch h), fun _ h => h⟩

/-- Settles O60: runs from states alike but for the working registers stay in lockstep. -/
theorem workingRegistersCarryNothingOver : Obligations.WorkingRegistersCarryNothingOver := by
  intro i s s' h
  have halike : AlikeButWork s s' := h
  exact (lockstep_alikeButWork.exec halike i).alikeButWork

/-! ### The desync flag (R30) -/

/-- One state, in sync, with the outcomes `rs`: what the ends of one run are when no error has come. -/
def InSync (rs : List OpOutcome) (s t : State) : Prop :=
  s = t ∧ t.desync = false ∧ t.results = rs

/-- One state with the outcomes `rs`, out of sync exactly after a `SyncError`. -/
def SyncLostBy (rs : List OpOutcome) (e : OpError) (s t : State) : Prop :=
  s = t ∧ (t.desync = true ↔ e.isSync = true) ∧ t.results = rs

theorem readCycle_sync {rs : List OpOutcome} (a : Addr) (n : Nat) (s t : State) (h : InSync rs s t) :
    (readCycle a n s).Match (InSync rs) (SyncLostBy rs) (readCycle a n t) := by
  obtain ⟨rfl, hd, hrs⟩ := h
  rcases readCycle_all a n s with ⟨-, h⟩ | ⟨-, -, h⟩ | ⟨-, -, h⟩ | ⟨-, x, r, tgt, -, -, -, -, -, h⟩ |
    ⟨-, bytes, t, u, -, -, -, hu, h⟩ <;> rw [h]
  · exact .faulted _
  · exact .faulted _
  · exact .raised _ ⟨rfl, by simp [hd, OpError.isSync], hrs⟩
  · exact .raised _ ⟨rfl, by simp [readAborted, OpError.isSync], hrs⟩
  · have hsame := readRuns_same hu
    exact .ok _ ⟨rfl, hsame.desync.trans hd, hsame.results.trans hrs⟩

theorem writeCycle_sync {rs : List OpOutcome} (a : Addr) (bytes : List Byte) (s t : State)
    (h : InSync rs s t) : (writeCycle a bytes s).Match (InSync rs) (SyncLostBy rs) (writeCycle a bytes t) := by
  obtain ⟨rfl, hd, hrs⟩ := h
  rcases writeCycle_all a bytes s with ⟨-, h⟩ | ⟨-, -, h⟩ | ⟨-, -, h⟩ | ⟨-, -, -, x, r, tgt, -, -, h⟩ |
    ⟨-, -, -, x, t, tgt, -, -, h⟩ | ⟨-, -, -, u, hu, h⟩ <;> rw [h]
  · exact .faulted _
  · exact .faulted _
  · exact .raised _ ⟨rfl, by simp [hd, OpError.isSync], hrs⟩
  · exact .raised _ ⟨rfl, by simp [writeAborted, OpError.isSync], hrs⟩
  · exact .raised _ ⟨rfl, by simp [writeAborted, OpError.isSync], hrs⟩
  · have hsame := writeRuns_same hu
    exact .ok _ ⟨rfl, hsame.desync.trans hd, hsame.results.trans hrs⟩

/-- A run in lockstep with itself: only a `SyncError` sets the flag (R30, R209). -/
theorem lockstep_inSync (rs : List OpOutcome) : Lockstep (InSync rs) (SyncLostBy rs) where
  read := readCycle_sync
  write := writeCycle_sync
  ready := by
    rintro s _ ⟨rfl, h⟩
    rcases readyChecks_cases s with ⟨-, hs⟩ | ⟨-, -, hs⟩ | ⟨-, -, hs⟩ <;> rw [hs]
    · exact .faulted _
    · exact .faulted _
    · exact .ok () ⟨rfl, h⟩
  plainError := fun e s t he ⟨hst, hd, hrs⟩ => ⟨hst, by simp [hd, he], hrs⟩
  params := by rintro s _ ⟨rfl, -⟩; rfl
  device := by rintro s _ ⟨rfl, -⟩; rfl
  polls := by rintro s _ ⟨rfl, -⟩; rfl
  setDevice := by rintro d s _ ⟨rfl, h⟩; exact ⟨rfl, h⟩
  setLinesOutput := by rintro s _ ⟨rfl, h⟩; exact ⟨rfl, h⟩
  setLinesInput := by rintro z s _ ⟨rfl, h⟩; exact ⟨rfl, by simpa using h⟩
  assertFrame := by rintro f s _ ⟨rfl, h⟩; exact ⟨rfl, h⟩
  setClock := by rintro l s _ ⟨rfl, h⟩; exact ⟨rfl, h⟩
  busInit := by rintro s _ ⟨rfl, -, hrs⟩; exact ⟨rfl, rfl, hrs⟩
  writeNibble := by rintro v f s _ ⟨rfl, h⟩; exact ⟨rfl, h⟩
  readNibble := by rintro s _ ⟨rfl, h⟩; exact ⟨⟨rfl, h⟩, rfl⟩

theorem OpError.isSync_iff (e : OpError) : e.isSync = true ↔ ∃ c k a v, e = .syncError c k a v := by
  cases e <;> simp [OpError.isSync]

/-- From a state in sync, an operation sets the flag exactly when it ends in a `SyncError`. -/
theorem exec_desync_iff {i : Instr} {s t : State} (h : exec i s = .next t) (hd : s.desync = false) :
    t.desync = true ↔ ∃ c k a v, t.results = s.results ++ [.raised (.syncError c k a v)] := by
  rcases ((lockstep_inSync s.results).exec ⟨rfl, hd, rfl⟩ i).of_next h with
    ⟨v, u, _, ⟨rfl, hud, hurs⟩, rfl⟩ | ⟨e, u, _, ⟨rfl, hud, hurs⟩, rfl⟩ |
    ⟨n, u, _, ⟨rfl, hud, hurs⟩, rfl⟩
  · simp [hud, hurs]
  · simp [hud, hurs, OpError.isSync_iff]
  · simp [hud, hurs]

/-- Every operation but `busInit` leaves a desynced engine desynced (R30, R209). -/
theorem keptBy_desynced {i : Instr} (hi : i ≠ .busInit) : KeptBy i fun t => t.desync = true where
  read _ _ _ _ h := readCycle_keeps h (fun _ _ _ _ _ _ _ _ _ => rfl)
    fun _ _ _ _ _ _ _ hu => (readRuns_same hu).desync.trans h
  write _ _ _ _ h := writeCycle_keeps h (fun _ _ _ _ _ _ _ => rfl)
    fun _ _ _ _ hu => (writeRuns_same hu).desync.trans h
  device _ _ _ _ h := h
  poll _ _ _ h := h
  record _ _ h := h
  setLinesOutput _ _ h := h
  setLinesInput z _ u h := by rwa [setLinesInput_desync]
  assertFrame _ _ _ h := h
  setClock _ _ _ h := h
  busInit hb := absurd hb hi
  writeNibble _ _ _ _ h := h
  readNibble _ _ h := h

/-- From a desynced state, `busInit` and nothing else clears the flag (R30, R214). -/
theorem exec_resync_iff {i : Instr} {s t : State} (h : exec i s = .next t) (hd : s.desync = true) :
    t.desync = false ↔ i = .busInit := by
  constructor
  · intro ht
    by_contra hi
    have hkept := exec_keeps (keptBy_desynced hi) hd h
    exact Bool.false_ne_true (ht.symm.trans hkept)
  · rintro rfl
    obtain rfl := Host.Outcome.next.inj h
    rfl

/-- Settles O56. -/
theorem desyncIsSetBySyncErrorOnly : Obligations.DesyncIsSetBySyncErrorOnly :=
  fun _ _ => ⟨fun _ h hd => exec_desync_iff h hd, fun _ h hd => exec_resync_iff h hd,
    fun hp hd hi => exec_of_faulted (readyChecks_of_desynced hp hd) hi⟩

end Sys2Proof.Machine
end

section
/-! The phase tables R139 and R140, one phase after another, are the two bus cycles. -/

namespace Sys2Proof.Machine

/-! ### One phase -/

section

variable (s : State)

theorem phaseStep_rc1 : phaseStep (enter .rc1 s) = .ok () (enter .rc2 (rc1 s)) := rfl

theorem phaseStep_rc2 : phaseStep (enter .rc2 s) =
    .ok () (enter .rc3 (writeNibble Config.startRead true (enter .rc2 s))) := rfl

theorem phaseStep_rc3 : phaseStep (enter .rc3 s) =
    .ok () (enter .rc4 (writeNibble Config.idselValue false (enter .rc3 s))) := rfl

theorem phaseStep_rc4 : phaseStep (enter .rc4 s) =
    .ok () (enter .rc5 (sendAddress s.addr (enter .rc4 s))) := rfl

theorem phaseStep_rc6 : phaseStep (enter .rc6 s) = .ok () (enter .rc7 (rc6 s)) := rfl
theorem phaseStep_rc7 : phaseStep (enter .rc7 s) = .ok () (enter .rc8 (rc7 s)) := rfl
theorem phaseStep_rc8 : phaseStep (enter .rc8 s) = .ok () (enter .rc9 (rc8 s)) := rfl

theorem phaseStep_rc9 : phaseStep (enter .rc9 s) =
    (rc9 s).bind fun _ t => .ok () (enter .rc10 (setIdx 0 t)) := rfl

theorem phaseStep_rc11 : phaseStep (enter .rc11 s) = .ok () (enter .rc12 (rc11 s)) := rfl
theorem phaseStep_rc12 : phaseStep (enter .rc12 s) = .ok () (enter .idle (rc12 s)) := rfl

theorem phaseStep_wc1 : phaseStep (enter .wc1 s) = .ok () (enter .wc2 (wc1 s)) := rfl

theorem phaseStep_wc2 : phaseStep (enter .wc2 s) =
    .ok () (enter .wc3 (writeNibble Config.startWrite true (enter .wc2 s))) := rfl

theorem phaseStep_wc3 : phaseStep (enter .wc3 s) =
    .ok () (enter .wc4 (writeNibble Config.idselValue false (enter .wc3 s))) := rfl

theorem phaseStep_wc4 : phaseStep (enter .wc4 s) =
    .ok () (enter .wc5 (sendAddress s.addr (enter .wc4 s))) := rfl

theorem phaseStep_wc7 : phaseStep (enter .wc7 s) = .ok () (enter .wc8 (wc7 s)) := rfl
theorem phaseStep_wc8 : phaseStep (enter .wc8 s) = .ok () (enter .wc9 (wc8 s)) := rfl
theorem phaseStep_wc9 : phaseStep (enter .wc9 s) = .ok () (enter .wc10 (wc9 s)) := rfl

theorem phaseStep_wc10 : phaseStep (enter .wc10 s) =
    (wc10 s).bind fun _ t => .ok () (enter .wc11 t) := rfl

theorem phaseStep_wc11 : phaseStep (enter .wc11 s) =
    (wc11 s).bind fun _ t => .ok () (enter .wc12 t) := rfl

theorem phaseStep_wc12 : phaseStep (enter .wc12 s) = .ok () (enter .idle (wc12 s)) := rfl

variable {s} {c : Nibble} (hc : sizeCode s.len s.kind = some c)

include hc

/-- RC5 and WC5 send the size code of the cycle that is loaded. -/
theorem sendSize_ok (next : Phase) : sendSize next s = .ok () (enter next (writeNibble c false s)) := by
  simp [sendSize, raiseSizeCode, hc, Ran.bind]

theorem phaseStep_rc5 :
    phaseStep (enter .rc5 s) = .ok () (enter .rc6 (writeNibble c false (enter .rc5 s))) :=
  sendSize_ok (s := enter .rc5 s) hc .rc6

theorem phaseStep_wc5 :
    phaseStep (enter .wc5 s) = .ok () (setIdx 0 (enter .wc6 (writeNibble c false (enter .wc5 s)))) := by
  have hsend := sendSize_ok (s := enter .wc5 s) hc .wc6
  simp only [phaseStep, enter_phase, hsend, Ran.bind]

end

/-- RC10 at byte `i`. -/
theorem phaseStep_rc10 {s : State} (hp : s.phase = .rc10) (i : Nat) :
    phaseStep (setIdx i s) = .ok () (nextByte .rc11 (readByte (setIdx i s))) := by
  rw [phaseStep, setIdx_phase, hp]

/-- WC6 at byte `i`. -/
theorem phaseStep_wc6 {s : State} (hp : s.phase = .wc6) (i : Nat) :
    phaseStep (setIdx i s) = .ok () (nextByte .wc7 (sendByte (s.tx.getD i 0x00) (setIdx i s))) := by
  rw [phaseStep, setIdx_phase, hp]
  rfl

/-- RC10 and WC6 stay while bytes are left (R28). -/
theorem nextByte_more {s : State} (h : s.idx + 1 < s.len) (next : Phase) :
    nextByte next s = setIdx (s.idx + 1) s := if_pos h

/-- RC10 and WC6 are left after the last byte (R28). -/
theorem nextByte_last {s : State} (h : s.len ≤ s.idx + 1) (next : Phase) :
    nextByte next s = enter next s := if_neg (by omega)

@[simp] theorem readByte_len (s : State) : (readByte s).len = s.len := rfl
@[simp] theorem readByte_idx (s : State) : (readByte s).idx = s.idx := rfl
@[simp] theorem readByte_phase (s : State) : (readByte s).phase = s.phase := rfl

@[simp] theorem sendByte_len (b : Byte) (s : State) : (sendByte b s).len = s.len := by simp [sendByte]
@[simp] theorem sendByte_idx (b : Byte) (s : State) : (sendByte b s).idx = s.idx := by simp [sendByte]
@[simp] theorem sendByte_phase (b : Byte) (s : State) : (sendByte b s).phase = s.phase := by
  simp [sendByte]
@[simp] theorem sendByte_tx (b : Byte) (s : State) : (sendByte b s).tx = s.tx := by simp [sendByte]

@[simp] theorem enter_enter (p q : Phase) (s : State) : enter p (enter q s) = enter p s := rfl

/-- A phase that does not fail, and the phases after it. -/
theorem runPhases_succ {s t : State} (h : phaseStep s = .ok () t) (k : Nat) :
    runPhases (k + 1) s = runPhases k t := by rw [runPhases, h]; rfl

/-! ### The read cycle (R139) -/

/-- RC1 to RC8. -/
theorem runPhases_readHead {s : State} {c : Nibble} (hc : sizeCode s.len s.kind = some c) (k : Nat) :
    runPhases (k + 8) (enter .rc1 s) = runPhases k (enter .rc9 (readHead c s)) := by
  rw [runPhases_succ (phaseStep_rc1 _), runPhases_succ (phaseStep_rc2 _),
    runPhases_succ (phaseStep_rc3 _), runPhases_succ (phaseStep_rc4 _),
    runPhases_succ (phaseStep_rc5 (c := c) (by simpa [rc1, sendAddress_eq] using hc)),
    runPhases_succ (phaseStep_rc6 _), runPhases_succ (phaseStep_rc7 _), runPhases_succ (phaseStep_rc8 _)]
  simp [readHead, sendHeader, headerPhase, rc1]

/-- RC10, once per byte: `i` bytes received, `m + 1` to come. -/
theorem runPhases_readData (m i k : Nat) (s : State) (hp : s.phase = .rc10) (hl : s.len = i + m + 1) :
    runPhases (k + m + 1) (setIdx i s) = runPhases k (enter .rc11 (readData (m + 1) i s)) := by
  induction m generalizing i s with
  | zero =>
    rw [Nat.add_zero, runPhases_succ (phaseStep_rc10 hp i), nextByte_last (by simp [hl])]
    rfl
  | succ m ih =>
    rw [← Nat.add_assoc, runPhases_succ (phaseStep_rc10 hp i),
      nextByte_more (by simp [hl])]
    exact ih (i + 1) (readByte (setIdx i s)) (by simpa using hp) (by simp [hl]; omega)

/-- RC10 to RC12. -/
theorem runPhases_readTail {m : Nat} {s : State} (hl : s.len = m + 1) :
    runPhases (m + 3) (enter .rc10 (setIdx 0 s)) = .ok () (readTail s) := by
  have hdata := runPhases_readData m 0 2 (enter .rc10 s) rfl (by simp [hl])
  rw [show m + 3 = 2 + m + 1 by omega]
  refine hdata.trans ?_
  rw [runPhases_succ (phaseStep_rc11 _), runPhases_succ (phaseStep_rc12 _), readTail, rc10, hl]
  rfl

/-- RC9 leaves the length. -/
theorem rc9_ok_len {s t : State} (h : rc9 s = .ok () t) : t.len = s.len := by
  simp only [rc9] at h
  split_ifs at h
  · obtain ⟨-, rfl⟩ := Ran.ok.inj h; rfl
  · obtain ⟨-, rfl⟩ := Ran.ok.inj h; rfl
  · cases h

/-- The phases from RC1 are the read cycle (R28). -/
theorem runPhases_readCycle {n : Nat} {c : Nibble} {s : State} (a : Addr) (hr : s.ready = true)
    (hc : sizeCode n .memoryRead = some c) :
    runPhases (n + 11) (enter .rc1 (loadRead a n s)) = (readCycle a n s).bind fun _ t => .ok () t := by
  obtain ⟨hp, hd⟩ := (ready_iff s).1 hr
  obtain ⟨m, rfl⟩ := Nat.exists_eq_add_of_le' (sizeCode_range hc).1
  have hlen : (readHead c (loadRead a (m + 1) s)).len = m + 1 := by rw [readHead_eq]; rfl
  rw [readCycle, entryChecks_ready hp hd hc, show m + 1 + 11 = (m + 3) + 1 + 8 by omega,
    runPhases_readHead hc, runPhases, phaseStep_rc9]
  simp only [Ran.bind]
  cases h : rc9 (readHead c (loadRead a (m + 1) s)) with
  | ok u t => exact runPhases_readTail ((rc9_ok_len h).trans hlen)
  | raised e t => rfl
  | faulted f => rfl

/-- The legal read lengths have a size code (R126). -/
theorem sizeCode_read {n : Nat} (hn : n ∈ [1, 2, 4, 16, 128]) : ∃ c, sizeCode n .memoryRead = some c := by
  simp only [List.mem_cons, List.not_mem_nil, or_false] at hn
  rcases hn with rfl | rfl | rfl | rfl | rfl <;> exact ⟨_, rfl⟩

/-- The legal write lengths have a size code (R126). -/
theorem sizeCode_write {n : Nat} (hn : n ∈ [1, 2, 4]) : ∃ c, sizeCode n .memoryWrite = some c := by
  simp only [List.mem_cons, List.not_mem_nil, or_false] at hn
  rcases hn with rfl | rfl | rfl <;> exact ⟨_, rfl⟩

/-- Settles O30. -/
theorem phaseTableRunsTheReadCycle : Obligations.PhaseTableRunsTheReadCycle := by
  intro a n s hr hn
  obtain ⟨c, hc⟩ := sizeCode_read hn
  rw [runPhases_readCycle a hr hc]
  exact ⟨fun r t h => by rw [h]; rfl, fun e t h => by rw [h]; rfl⟩

/-! ### The write cycle (R140) -/

/-- WC1 to WC5. -/
theorem runPhases_writeHeader {s : State} {c : Nibble} (hc : sizeCode s.len s.kind = some c) (k : Nat) :
    runPhases (k + 5) (enter .wc1 s) =
      runPhases k (setIdx 0 (enter .wc6 (sendHeader Config.startWrite s.addr c (wc1 s)))) := by
  rw [runPhases_succ (phaseStep_wc1 _), runPhases_succ (phaseStep_wc2 _),
    runPhases_succ (phaseStep_wc3 _), runPhases_succ (phaseStep_wc4 _),
    runPhases_succ (phaseStep_wc5 (c := c) (by simpa [wc1, sendAddress_eq] using hc))]
  simp [sendHeader, headerPhase, wc1, Config.startWrite, Config.startRead]

/-- WC6, once per byte: the bytes `sent`, then `b` and `bs`. -/
theorem runPhases_writeData (b : Byte) (bs sent : List Byte) (k : Nat) (s : State) (hp : s.phase = .wc6)
    (htx : s.tx = sent ++ b :: bs) (hl : s.len = s.tx.length) :
    runPhases (k + bs.length + 1) (setIdx sent.length s) =
      runPhases k (enter .wc7 (writeData (b :: bs) sent.length s)) := by
  induction bs generalizing b sent s with
  | nil =>
    rw [List.length_nil, Nat.add_zero, runPhases_succ (phaseStep_wc6 hp _), nextByte_last (by simp [hl, htx])]
    simp [htx, sendByte, writeData]
  | cons c bs ih =>
    have hb : s.tx.getD sent.length 0x00 = b := by simp [htx]
    have hsent : sent.length + 1 = (sent ++ [b]).length := by simp
    rw [List.length_cons, ← Nat.add_assoc, runPhases_succ (phaseStep_wc6 hp _), hb,
      nextByte_more (by simp [hl, htx]), sendByte_idx, setIdx_idx, writeData, hsent]
    exact ih c (sent ++ [b]) _ (by simpa using hp) (by simp [htx]) (by simpa using hl)

/-- WC1 to WC9. -/
theorem runPhases_writeHead {b : Byte} {bs : List Byte} {s : State} {c : Nibble}
    (hc : sizeCode s.len s.kind = some c) (htx : s.tx = b :: bs) (hl : s.len = s.tx.length) (k : Nat) :
    runPhases (k + bs.length + 9) (enter .wc1 s) = runPhases k (enter .wc10 (writeHead c s)) := by
  have htx' : (sendHeader Config.startWrite s.addr c (wc1 s)).tx = b :: bs := by
    simpa [sendHeader_eq, wc1] using htx
  have hl' : (sendHeader Config.startWrite s.addr c (wc1 s)).len = (b :: bs).length := by
    simpa [sendHeader_eq, wc1, htx] using hl
  have hdata := runPhases_writeData b bs [] (k + 3)
    (enter .wc6 (sendHeader Config.startWrite s.addr c (wc1 s))) rfl htx' (by rw [enter_tx, htx']; exact hl')
  rw [show k + bs.length + 9 = k + 3 + bs.length + 1 + 5 by omega, runPhases_writeHeader hc]
  refine hdata.trans ?_
  rw [runPhases_succ (phaseStep_wc7 _), runPhases_succ (phaseStep_wc8 _), runPhases_succ (phaseStep_wc9 _),
    writeHead, wc6, htx', List.length_nil]

/-- WC10 to WC12. -/
theorem runPhases_writeTail (s : State) : runPhases 3 (enter .wc10 s) =
    (wc10 s).bind fun _ t => (wc11 t).bind fun _ u => .ok () (enter .idle (wc12 u)) := by
  rw [runPhases, phaseStep_wc10]
  cases wc10 s with
  | ok _ t =>
    simp only [Ran.bind]
    rw [runPhases, phaseStep_wc11]
    cases wc11 t with
    | ok _ u => exact runPhases_succ (phaseStep_wc12 u) 0
    | raised e u => rfl
    | faulted f => rfl
  | raised e t => rfl
  | faulted f => rfl

/-- The phases from WC1 are the write cycle (R28). -/
theorem runPhases_writeCycle {bytes : List Byte} {c : Nibble} {s : State} (a : Addr) (hr : s.ready = true)
    (hc : sizeCode bytes.length .memoryWrite = some c) :
    runPhases (bytes.length + 11) (enter .wc1 (loadWrite a bytes s)) = writeCycle a bytes s := by
  obtain ⟨hp, hd⟩ := (ready_iff s).1 hr
  cases bytes with
  | nil => cases hc
  | cons b bs =>
    rw [List.length_cons, show bs.length + 1 + 11 = 3 + bs.length + 9 by omega,
      runPhases_writeHead hc rfl rfl, runPhases_writeTail, writeCycle, entryChecks_ready hp hd hc]
    rfl

/-- Settles O31. -/
theorem phaseTableRunsTheWriteCycle : Obligations.PhaseTableRunsTheWriteCycle := by
  intro a bytes s hr hn
  obtain ⟨c, hc⟩ := sizeCode_write hn
  rw [runPhases_writeCycle a hr hc]
  exact ⟨fun t h => h, fun e t h => h⟩

end Sys2Proof.Machine
end

section
/-! Good states: process start is one, and every step keeps one good. -/

namespace Sys2Proof.Machine

/-! ### A legal registry -/

/-- Two descriptors with different (mfr, chip) pairs. -/
def PairsDiffer (d e : DeviceDescriptor) : Prop := ¬(e.mfr = d.mfr ∧ e.chip = d.chip)

/-- No pair twice, as a fact about any two entries (R166). -/
theorem pairsDistinct_iff (ds : List DeviceDescriptor) :
    Params.pairsDistinct ds = true ↔ ds.Pairwise PairsDiffer := by
  induction ds with
  | nil => simp [Params.pairsDistinct]
  | cons d ds ih => simp [Params.pairsDistinct, ih, PairsDiffer, and_comm, imp_iff_not_or]

/-- The registry as R166 and R167 want it. -/
structure RegistryLegal (ds : List DeviceDescriptor) : Prop where
  reference : ∃ d ∈ ds, d = Config.refDevice d.readSeq
  distinct : ds.Pairwise PairsDiffer
  nonzero : ∀ d ∈ ds, ¬(d.mfr = 0x00 ∧ d.chip = 0x00)

theorem legal_of_registryLegal {p : Params} (h : RegistryLegal p.registry) (hlimit : p.pollLimit = none) :
    p.legal = true := by
  have href : p.registry.any (fun d => d == Config.refDevice d.readSeq) = true := by
    simpa using h.reference
  have hnz : p.registry.all (fun d => !(d.mfr == 0x00 && d.chip == 0x00)) = true := by
    simpa [imp_iff_not_or] using h.nonzero
  simp only [Params.legal, href, (pairsDistinct_iff _).2 h.distinct, hnz, hlimit, Bool.and_self]

/-- Taking in further entries keeps a legal registry legal (R166). -/
theorem registryLegal_takeIn {kept : List DeviceDescriptor} (h : RegistryLegal kept)
    (ds : List DeviceDescriptor) : RegistryLegal (Params.takeIn kept ds) := by
  induction ds generalizing kept with
  | nil => exact h
  | cons d ds ih =>
    rw [Params.takeIn]
    split_ifs with hd
    · exact ih h
    · simp only [Bool.or_eq_true, List.any_eq_true, Bool.and_eq_true, beq_iff_eq, not_or, not_exists,
        not_and] at hd
      obtain ⟨hnew, hnz⟩ := hd
      refine ih ⟨?_, ?_, ?_⟩
      · obtain ⟨e, he, hr⟩ := h.reference
        exact ⟨e, List.mem_append_left _ he, hr⟩
      · refine List.pairwise_append.2 ⟨h.distinct, List.pairwise_singleton _ _, fun e he f hf => ?_⟩
        obtain rfl := List.mem_singleton.1 hf
        exact fun ⟨hm, hc⟩ => hnew e he hm.symm hc.symm
      · intro e he
        rcases List.mem_append.1 he with he | he
        · exact h.nonzero e he
        · obtain rfl := List.mem_singleton.1 he
          exact fun ⟨hm, hc⟩ => hnz hm hc

/-- The parameters at process start are legal, whatever the OPEN entries are (R12, R166, R167). -/
theorem config_params_legal : Config.params.legal = true := by
  refine legal_of_registryLegal (registryLegal_takeIn ⟨?_, ?_, ?_⟩ _) rfl
  · exact ⟨_, List.mem_singleton_self _, rfl⟩
  · exact List.pairwise_singleton _ _
  · intro d hd
    obtain rfl := List.mem_singleton.1 hd
    simp [Config.refDevice]

/-- Settles O53. -/
theorem resetIsGood : Obligations.ResetIsGood where
  atRest := .inl rfl
  abortedDesynced := by simp [State.reset, State.processStart]
  desyncedPrepared := by simp [State.reset, State.processStart]
  paramsLegal := config_params_legal
  deviceRegistered _ h := nomatch h
  linesTraced := rfl
  ladShared := ⟨rfl, rfl, rfl⟩
  hostWaits := rfl
  targetWaits := rfl
  samplesLogged := rfl
  lenRange := Nat.zero_le _
  idxRange := Nat.zero_le _
  polling := trivial
  memory := trivial

/-! ### Events and entries that go together -/

/-- Events `es` and log entries `ns` that take the lines from `ls` to `ls'`: what the trace says of the
lines, of the delays and of the samples holds of this part of it (R22, R23, R107, R115, R118). -/
structure Traced (ls : Lines) (es : List LineEvent) (ns : List NibbleEvent) (ls' : Lines) : Prop where
  lines : ls' = replay ls es
  shared : sharedDirection ls → sharedDirection ls'
  hostWaits : countWaits .wSettle es = 2 * hostClocks ns
  targetWaits : countWaits .rSettle es = 2 * targetClocks ns
  samples : sampledLevels es = answerLevels ns

theorem traced_output (ls : Lines) : Traced ls outputEvents [] (replay ls outputEvents) :=
  ⟨rfl, fun _ => ⟨rfl, rfl, rfl⟩, rfl, rfl, rfl⟩

theorem traced_input (ls : Lines) (z : Bool) : Traced ls (inputEvents z) [] (replay ls (inputEvents z)) := by
  cases z <;> exact ⟨rfl, fun _ => ⟨rfl, rfl, rfl⟩, rfl, rfl, rfl⟩

theorem traced_frame (ls : Lines) (f : Bool) :
    Traced ls [.lvl .lframe (frameLevel f)] [] (ls.drive .lframe (frameLevel f)) :=
  ⟨rfl, id, rfl, rfl, rfl⟩

theorem traced_clock (ls : Lines) (l : Level) : Traced ls [.lvl .lclk l] [] (ls.drive .lclk l) :=
  ⟨rfl, id, rfl, rfl, rfl⟩

theorem traced_poll (ls : Lines) : Traced ls [.wait .poll] [] ls := ⟨rfl, id, rfl, rfl, rfl⟩

theorem traced_busInit (ls : Lines) (we : Level) :
    Traced ls (busInitEvents we) [] (replay ls (busInitEvents we)) :=
  ⟨rfl, fun _ => ⟨rfl, rfl, rfl⟩, rfl, rfl, rfl⟩

theorem traced_hostSlot (ls : Lines) (v : Nibble) (f : Bool) :
    Traced ls (slotEvents (.host v f)) [.host v f] (hostSlotLines v f ls) :=
  ⟨rfl, id, rfl, rfl, rfl⟩

theorem traced_targetSlot (ls : Lines) (v : Nibble) :
    Traced ls (slotEvents (.target v)) [.target v] (targetSlotLines ls) :=
  ⟨rfl, id, rfl, rfl, rfl⟩

/-- A cycle's events and its slots, for the frame of host slots that ends with the turnaround. -/
theorem traced_cycle (ls : Lines) (z : Bool) {hosts : List Nibble} (hne : hosts ≠ []) (vs : List Nibble) :
    Traced ls (cycleEvents z (hostEntries (hosts ++ [Config.tarHost])) vs)
      (hostEntries (hosts ++ [Config.tarHost]) ++ vs.map .target)
      (linesAfterCycle (if z then .low else .high) ls) where
  lines := by
    rw [hostEntries_concat hne]
    exact (replay_cycleEvents ls z (allHost_hostEntries _) vs).symm
  shared _ := ⟨rfl, rfl, rfl⟩
  hostWaits := by simp [countWaits_cycleEvents _ z (allHost_hostEntries _)]
  targetWaits := by simp [countWaits_cycleEvents _ z (allHost_hostEntries _)]
  samples := by simp [sampledLevels_cycleEvents z (allHost_hostEntries _)]

theorem traced_readCycle (ls : Lines) (a : Addr) (c : Nibble) (vs : List Nibble) :
    Traced ls (cycleEvents true (hostEntries (readFrameHost a c)) vs)
      (hostEntries (readFrameHost a c) ++ vs.map .target) (linesAfterCycle .low ls) :=
  traced_cycle ls true (by simp [putHeader]) vs

theorem traced_writeCycle (p : Params) (ls : Lines) (a : Addr) (c : Nibble) (bs : List Byte)
    (vs : List Nibble) :
    Traced ls (cycleEvents p.writeTarZeroFirst (hostEntries (writeFrameHost a c bs)) vs)
      (hostEntries (writeFrameHost a c bs) ++ vs.map .target) (linesAfterCycle (writeRestLevel p) ls) :=
  traced_cycle ls p.writeTarZeroFirst (by simp [putHeader]) vs

/-! ### The target's memory -/

/-- A reference target's memory is canonical (log 16). -/
def Target.canonical (t : Target) : Prop := ∀ m, targetMemory t = some m → m.wf

theorem memoryFits_iff (s : State) : s.memoryFits ↔ s.target.canonical := by
  cases h : s.target <;> simp [State.memoryFits, Target.canonical, targetMemory, h]

theorem RefTarget.complete_wf {rt : RefTarget} (h : rt.mem.wf) (p : Params) (f : Frame) :
    (rt.complete p f).mem.wf := by
  cases f with
  | read a size => exact h
  | write a data =>
    rw [RefTarget.complete]
    split_ifs
    · exact h
    · exact Memory.wf_writeList h a _

theorem RefTarget.draw_wf {rt : RefTarget} (h : rt.mem.wf) (p : Params) (log : List NibbleEvent) :
    (rt.draw p log).2.mem.wf := by
  unfold RefTarget.draw
  split
  · exact h
  · rename_i f hf
    dsimp only
    split
    · exact h
    · dsimp only
      split_ifs
      · exact RefTarget.complete_wf h p f
      · exact h

theorem Target.canonical_draw {t : Target} (h : t.canonical) (p : Params) (log : List NibbleEvent) :
    (t.draw p log).2.canonical := by
  cases t with
  | oracle vs => cases vs <;> exact fun _ hm => nomatch hm
  | reference rt =>
    rintro m hm
    obtain rfl := Option.some.inj hm
    exact RefTarget.draw_wf (h _ rfl) p log

theorem Target.canonical_draws {t : Target} (h : t.canonical) (p : Params) (k : Nat)
    (log : List NibbleEvent) : (t.draws p k log).2.canonical := by
  induction k generalizing t log with
  | zero => exact h
  | succ k ih => exact ih (canonical_draw h p log) _

theorem Target.canonical_resetPulse {t : Target} (h : t.canonical) : t.resetPulse.canonical := by
  cases t <;> exact h

theorem canonical_of_readAnswers {s : State} {a : Addr} {n : Nat} {vs : List Nibble} {tgt : Target}
    (hs : s.target.canonical) (h : s.readAnswers a n vs tgt) : tgt.canonical := by
  have hdraws := Target.canonical_draws hs s.params vs.length
    (s.nibbles ++ hostEntries (readFrameHost a (codeOf n .memoryRead)))
  rwa [show _ = (vs, tgt) from h] at hdraws

theorem canonical_of_writeAnswers {s : State} {a : Addr} {bytes : List Byte} {vs : List Nibble}
    {tgt : Target} (hs : s.target.canonical) (h : s.writeAnswers a bytes vs tgt) : tgt.canonical := by
  have hdraws := Target.canonical_draws hs s.params vs.length
    (s.nibbles ++ hostEntries (writeFrameHost a (codeOf bytes.length .memoryWrite) bytes))
  rwa [show _ = (vs, tgt) from h] at hdraws

/-! ### What every part of an operation keeps -/

/-- A good state, the poll counter left aside: it is set and cleared with the caller's lines, by the step. -/
def State.GoodButPolls (s : State) : Prop := { s with polls := none }.Inv

theorem State.Inv.goodButPolls {s : State} (h : s.Inv) : s.GoodButPolls :=
  { h with polling := trivial }

theorem State.GoodButPolls.inv {s : State} (h : s.GoodButPolls) (hp : s.pollingFits) : s.Inv :=
  { h with polling := hp }

/-- The phase and the flags between operations (R28, R128, R209). -/
structure FlagsAtRest (phase : Phase) (desync prepared : Bool) : Prop where
  atRest : phase = .idle ∨ phase = .aborted
  abortedDesynced : phase = .aborted ↔ desync = true
  desyncedPrepared : desync = true → prepared = true

theorem State.GoodButPolls.flags {s : State} (h : s.GoodButPolls) :
    FlagsAtRest s.phase s.desync s.prepared := ⟨h.atRest, h.abortedDesynced, h.desyncedPrepared⟩

theorem flagsAtRest_idle {prepared : Bool} : FlagsAtRest .idle false prepared :=
  ⟨.inl rfl, by simp, by simp⟩

theorem flagsAtRest_aborted : FlagsAtRest .aborted true true := ⟨.inr rfl, by simp, fun _ => rfl⟩

/-- A good state goes on to a good state by events and entries that go together. -/
theorem State.GoodButPolls.extend {s t : State} {es : List LineEvent} {ns : List NibbleEvent}
    (h : s.GoodButPolls) (htraced : Traced s.lines es ns t.lines) (htrace : t.trace = s.trace ++ es)
    (hnibbles : t.nibbles = s.nibbles ++ ns) (hflags : FlagsAtRest t.phase t.desync t.prepared)
    (hparams : t.params = s.params) (hdevice : t.device = none ∨ t.device = s.device)
    (hlen : t.len ≤ 128) (hidx : t.idx ≤ 127) (htarget : t.target.canonical) : t.GoodButPolls where
  atRest := hflags.atRest
  abortedDesynced := hflags.abortedDesynced
  desyncedPrepared := hflags.desyncedPrepared
  paramsLegal := by
    have := h.paramsLegal
    simpa [hparams] using this
  deviceRegistered d hd := by
    rcases hdevice with hn | hs
    · simp [hn] at hd
    · simpa [hparams] using h.deviceRegistered d (by simpa [hs] using hd)
  linesTraced := by
    have hl := h.linesTraced
    simp only [htrace, replay_append] at hl ⊢
    rw [← hl, htraced.lines]
  ladShared := htraced.shared h.ladShared
  hostWaits := by
    have := h.hostWaits
    simp only [htrace, hnibbles, countWaits_append, hostClocks_append, htraced.hostWaits] at this ⊢
    omega
  targetWaits := by
    have := h.targetWaits
    simp only [htrace, hnibbles, countWaits_append, targetClocks_append, htraced.targetWaits] at this ⊢
    omega
  samplesLogged := by
    have := h.samplesLogged
    simp only [htrace, hnibbles, sampledLevels_append, answerLevels_append, htraced.samples] at this ⊢
    rw [this]
  lenRange := hlen
  idxRange := hidx
  polling := trivial
  memory := (memoryFits_iff _).2 htarget

theorem readCycle_good {s : State} (h : s.GoodButPolls) (a : Addr) (n : Nat) :
    (readCycle a n s).All State.GoodButPolls := by
  have htgt := (memoryFits_iff _).1 h.memory
  refine readCycle_keeps h (fun x r tgt hr hans _ _ _ hn => ?_) fun bytes t u hr hl _ hn hu => ?_
  · have hp := ((ready_iff s).1 hr).1
    exact h.extend (traced_readCycle s.lines a _ [x, r]) rfl (List.append_assoc ..)
      (by simpa [readAborted, hp] using flagsAtRest_aborted) rfl (.inr rfl) hn h.idxRange
      (canonical_of_readAnswers htgt hans)
  · have hd := ((ready_iff s).1 hr).2
    obtain ⟨x, r, y, tgt, hans, -, rfl⟩ := hu
    exact h.extend (traced_readCycle s.lines a _ (readFrameTarget x r bytes t y)) rfl
      (List.append_assoc ..) (by simpa [readDone, hd] using flagsAtRest_idle) rfl (.inr rfl)
      (by simp only [readDone]; omega) (by simp only [readDone]; omega)
      (canonical_of_readAnswers htgt hans)

theorem writeCycle_good {s : State} (h : s.GoodButPolls) (a : Addr) (bytes : List Byte) :
    (writeCycle a bytes s).All State.GoodButPolls := by
  have htgt := (memoryFits_iff _).1 h.memory
  refine writeCycle_keeps h (fun vs tgt hr hans _ _ hn => ?_) fun u hr _ hn hu => ?_
  · have hp := ((ready_iff s).1 hr).1
    exact h.extend (traced_writeCycle s.params s.lines a _ bytes vs) rfl (List.append_assoc ..)
      (by simpa [writeAborted, writeSent, hp] using flagsAtRest_aborted) rfl (.inr rfl) hn
      (by simp only [writeAborted, writeSent, markDesynced_idx]; omega)
      (canonical_of_writeAnswers htgt hans)
  · have hd := ((ready_iff s).1 hr).2
    obtain ⟨x, y, tgt, hans, rfl⟩ := hu
    exact h.extend (traced_writeCycle s.params s.lines a _ bytes [x, 0x0, 0xF, y]) rfl
      (List.append_assoc ..) (by simpa [writeDone, writeSent, hd] using flagsAtRest_idle) rfl (.inr rfl)
      hn (by simp only [writeDone, writeSent, enter_idx]; omega)
      (canonical_of_writeAnswers htgt hans)

/-- Every part of every operation keeps a state good, the poll counter aside. -/
theorem keptBy_goodButPolls (i : Instr) : KeptBy i State.GoodButPolls where
  read _ a n _ h := readCycle_good h a n
  write _ a bs _ h := writeCycle_good h a bs
  device _ u d hd h := { h with
    deviceRegistered := fun e he => by
      rcases hd with rfl | ⟨d, hmem, rfl⟩
      · cases he
      · obtain rfl := Option.some.inj he
        exact hmem }
  poll _ n u h := h.extend (traced_poll u.lines) rfl (List.append_nil _).symm h.flags rfl (.inr rfl)
    h.lenRange h.idxRange ((memoryFits_iff _).1 h.memory)
  record o u h := { h with polling := trivial }
  setLinesOutput _ u h := h.extend (traced_output u.lines) (by simp) (by simp) h.flags rfl (.inr rfl)
    h.lenRange h.idxRange ((memoryFits_iff _).1 h.memory)
  setLinesInput z _ u h := h.extend (es := inputEvents z) (ns := [])
    (by rw [setLinesInput_lines, ← replay_inputEvents]; exact traced_input u.lines z) (by simp) (by simp)
    (by simpa using h.flags) (by simp) (by simp) (by simpa using h.lenRange)
    (by simpa using h.idxRange) (by simpa using (memoryFits_iff _).1 h.memory)
  assertFrame f _ u h := h.extend (traced_frame u.lines f) rfl (List.append_nil _).symm h.flags rfl
    (.inr rfl) h.lenRange h.idxRange ((memoryFits_iff _).1 h.memory)
  setClock l _ u h := h.extend (traced_clock u.lines l) rfl (List.append_nil _).symm h.flags rfl
    (.inr rfl) h.lenRange h.idxRange ((memoryFits_iff _).1 h.memory)
  busInit _ u h := by
    rw [busInit_eq]
    exact h.extend (traced_busInit u.lines u.params.weLevel) rfl (List.append_nil _).symm
      flagsAtRest_idle rfl (.inl rfl) h.lenRange h.idxRange
      (Target.canonical_resetPulse ((memoryFits_iff _).1 h.memory))
  writeNibble v f _ u h := h.extend (traced_hostSlot u.lines v f) (by simp) rfl h.flags rfl (.inr rfl)
    h.lenRange h.idxRange ((memoryFits_iff _).1 h.memory)
  readNibble _ u h := h.extend (traced_targetSlot u.lines _) (readNibble_trace u) (readNibble_nibbles u)
    h.flags rfl (.inr rfl) h.lenRange h.idxRange
    (Target.canonical_draw ((memoryFits_iff _).1 h.memory) _ _)

/-! ### The poll counter -/

theorem finish_polls {α : Type} {w : α → OpValue} {r : Ran α} {t : State} (h : finish w r = .next t) :
    t.polls = none := by
  cases r with
  | ok a s => obtain rfl := Host.Outcome.next.inj h; rfl
  | raised e s => obtain rfl := Host.Outcome.next.inj h; rfl
  | faulted f => cases h

theorem Ran.bind_eq_ok {α β : Type} {r : Ran α} {k : α → State → Ran β} {b : β} {t : State}
    (h : r.bind k = .ok b t) : ∃ a s, r = .ok a s ∧ k a s = .ok b t := by
  cases r with
  | ok a s => exact ⟨a, s, rfl, h⟩
  | raised e s => cases h
  | faulted f => cases h

/-- A read cycle that returns was and stays ready (R128, R134). -/
theorem ready_of_readCycle_ok {a : Addr} {n : Nat} {s t : State} {v : List Byte × Bool}
    (h : readCycle a n s = .ok v t) : t.ready = true := by
  rcases readCycle_all a n s with ⟨-, hx⟩ | ⟨-, -, hx⟩ | ⟨-, -, hx⟩ | ⟨-, x, r, tgt, -, -, -, -, -, hx⟩ |
    ⟨hr, bytes, u, w, -, -, -, hu, hx⟩ <;> rw [hx] at h
  · cases h
  · cases h
  · cases h
  · cases h
  · obtain ⟨-, rfl⟩ := Ran.ok.inj h
    exact (readRuns_same hu).ready.trans hr

/-- A status read that returns leaves the engine ready (R171). -/
theorem ready_of_readStatusRegister_ok {s t : State} {b : Byte} (h : readStatusRegister s = .ok b t) :
    t.ready = true := by
  obtain ⟨-, u, -, h⟩ := Ran.bind_eq_ok h
  obtain ⟨v, w, hread, h⟩ := Ran.bind_eq_ok h
  obtain ⟨-, rfl⟩ := Ran.ok.inj h
  exact ready_of_readCycle_ok hread

/-- Only a wait can still be running, and then its limit is not reached and the bus is ready (R172). -/
theorem exec_polls {i : Instr} {s t : State} (h : exec i s = .next t) :
    t.polls = none ∨ (i = .waitForWriteComplete ∧ ∃ n, t.polls = some n ∧ 1 ≤ n ∧
      pollsExhausted t.params.pollLimit n = false ∧ t.ready = true) := by
  cases i with
  | waitForWriteComplete =>
    simp only [exec, execWaitForWriteComplete] at h
    split at h
    · rename_i b u hb
      rw [afterPoll] at h
      split_ifs at h with hbusy hlimit
      · exact .inl (finish_polls h)
      · exact .inl (finish_polls h)
      · obtain rfl := Host.Outcome.next.inj h
        have hready : u.ready = true := ready_of_readStatusRegister_ok hb
        exact .inr ⟨rfl, _, rfl, Nat.le_add_left 1 _, Bool.eq_false_iff.2 hlimit, hready⟩
    · exact .inl (finish_polls h)
    · cases h
  | setLinesOutput | setLinesInput _ | assertFrame _ | setClock _ | busInit | writeNibble _ _ | readNibble
  | findDevice _ _ =>
    obtain rfl := Host.Outcome.next.inj h
    exact .inl rfl
  | _ => exact .inl (finish_polls h)

/-! ### A step -/

/-- An operation of the first line, run from a good state and retired, leaves a good state. -/
theorem inv_retire {s u : State} {line : List Nibble} {rest : List (List Nibble)} {i : Instr}
    (h : s.Inv) (hc : s.calls = line :: rest) (hd : decode line = .ok i) (hx : exec i s = .next u) :
    (retire u).Inv := by
  have hgood := exec_keeps (keptBy_goodButPolls i) h.goodButPolls hx
  rcases exec_polls hx with hp | ⟨rfl, n, hp, hn, hlimit, hready⟩
  · rw [retire_of_polls_none hp]
    have hretired : { u with calls := u.calls.tail }.GoodButPolls := { hgood with polling := trivial }
    exact hretired.inv (by simp [State.pollingFits, hp])
  · rw [retire_of_polls_some hp]
    have hcalls : u.calls = line :: rest := (exec_runsOn hx).calls.trans hc
    refine hgood.inv ?_
    simp only [State.pollingFits, hp, hcalls]
    exact ⟨hd, hn, hlimit, hready⟩

/-- Settles O54. -/
theorem stepKeepsGoodStates : Obligations.StepKeepsGoodStates := by
  intro s t h hstep
  rcases step_next_cases hstep with ⟨-, rfl⟩ | ⟨line, rest, i, u, hc, hd, hx, rfl⟩
  · exact h
  · exact inv_retire h hc hd hx

end Sys2Proof.Machine
end

section
/-! Two addresses that agree in bits 27..0: their frames are the same, and so are the cycles at them but for
the address that the register, the errors and the reports name. -/

namespace Sys2Proof.Machine

/-! ### The supported lengths (R126) -/

theorem readLength_iff (n : Nat) : n ∈ [1, 2, 4, 16, 128] ↔ ∃ c, sizeCode n .memoryRead = some c := by
  rw [← Option.ne_none_iff_exists', Ne, sizeCode_eq_none_iff]
  simp [lengthSupported, Config.readLengths, or_iff_not_imp_left]

theorem writeLength_iff (n : Nat) : n ∈ [1, 2, 4] ↔ ∃ c, sizeCode n .memoryWrite = some c := by
  rw [← Option.ne_none_iff_exists', Ne, sizeCode_eq_none_iff]
  simp [lengthSupported, Config.writeLengths, or_iff_not_imp_left]

/-! ### The reports of a read cycle (R131, R133) -/

/-- What a finished read cycle reports, given its RSYNC and its trailing turnaround. -/
def readReports (a : Addr) (r t : Nibble) : List Report :=
  (if rsyncAccepted r then [] else [.diagSync a r]) ++ if tarExpected t then [] else [.turnaroundWarning a t]

theorem readReports_naming (a b : Addr) (r t : Nibble) :
    (readReports a r t).map (·.naming b) = readReports b r t := by
  cases hr : rsyncAccepted r <;> cases ht : tarExpected t <;> simp [readReports, hr, ht, Report.naming]

theorem readDone_reports (a : Addr) (bytes : List Byte) (x r t y : Nibble) (tgt : Target) (s : State) :
    (readDone a bytes x r t y tgt s).reports = s.reports ++ readReports a r t := List.append_assoc ..

section

variable {a b : Addr} (hab : frameAddr a = frameAddr b)

include hab

/-! ### The same frame (R50, R75) -/

/-- The ADDR slots of an address are those of its bits 27..0. -/
theorem putFrameAddr_congr : putFrameAddr a = putFrameAddr b := by
  have hnarrow : ∀ c : Addr, putFrameAddr c = putFrameAddr (wideAddr (frameAddr c)) := fun c => by
    simpa using takeFrameAddr_ok (takeFrameAddr_putFrameAddr c [])
  rw [hnarrow a, hab, ← hnarrow b]

theorem readFrameHost_congr (code : Nibble) : readFrameHost a code = readFrameHost b code := by
  simp only [readFrameHost, putHeader, putFrameAddr_congr hab]

theorem writeFrameHost_congr (code : Nibble) (bytes : List Byte) :
    writeFrameHost a code bytes = writeFrameHost b code bytes := by
  simp only [writeFrameHost, putHeader, putFrameAddr_congr hab]

theorem readAnswers_congr (n : Nat) (vs : List Nibble) (tgt : Target) (s : State) :
    s.readAnswers a n vs tgt ↔ s.readAnswers b n vs tgt := by
  simp only [State.readAnswers, readFrameHost_congr hab]

theorem writeAnswers_congr (bytes : List Byte) (vs : List Nibble) (tgt : Target) (s : State) :
    s.writeAnswers a bytes vs tgt ↔ s.writeAnswers b bytes vs tgt := by
  simp only [State.writeAnswers, writeFrameHost_congr hab]

/-! ### The same state but for the address -/

theorem readAborted_congr (n : Nat) (x r : Nibble) (tgt : Target) (s : State) :
    readAborted b n x r tgt s = { readAborted a n x r tgt s with addr := b } := by
  simp only [readAborted, readFrameHost_congr hab]

theorem writeSent_congr (bytes : List Byte) (vs : List Nibble) (tgt : Target) (s : State) :
    writeSent b bytes vs tgt s = { writeSent a bytes vs tgt s with addr := b } := by
  simp only [writeSent, writeFrameHost_congr hab]

theorem readDone_congr (bytes : List Byte) (x r t y : Nibble) (tgt : Target) (s : State) :
    readDone b bytes x r t y tgt s =
      { readDone a bytes x r t y tgt s with addr := b, reports := s.reports ++ readReports b r t } := by
  rw [← readDone_reports b bytes x r t y tgt s]
  simp only [readDone, readFrameHost_congr hab]

/-! ### The two cycles -/

/-- Read cycles at the two addresses end alike: at the same check, or on the same answers. -/
theorem readCycle_congr (n : Nat) (s : State) :
    (∃ f, readCycle a n s = .faulted f ∧ readCycle b n s = .faulted f) ∨
    (n ∉ [1, 2, 4, 16, 128] ∧ readCycle a n s = .raised (.badBlockLength .memoryRead n) s ∧
      readCycle b n s = .raised (.badBlockLength .memoryRead n) s) ∨
    (n ∈ [1, 2, 4, 16, 128] ∧ ∃ x r tgt,
      readCycle a n s = .raised (.syncError .rsync .memoryRead a r) (readAborted a n x r tgt s) ∧
      readCycle b n s = .raised (.syncError .rsync .memoryRead b r) (readAborted b n x r tgt s)) ∨
    (n ∈ [1, 2, 4, 16, 128] ∧ ∃ bytes x r t y tgt,
      readCycle a n s = .ok (bytes, !(tarExpected t)) (readDone a bytes x r t y tgt s) ∧
      readCycle b n s = .ok (bytes, !(tarExpected t)) (readDone b bytes x r t y tgt s)) := by
  have hfault : ∀ f, readyChecks s = .faulted f →
      ∃ f, readCycle a n s = .faulted f ∧ readCycle b n s = .faulted f := fun f h =>
    ⟨f, readCycle_of_faulted h a n, readCycle_of_faulted h b n⟩
  rcases readyChecks_cases s with ⟨-, h⟩ | ⟨-, -, h⟩ | ⟨hp, hd, h⟩
  · exact .inl (hfault _ h)
  · exact .inl (hfault _ h)
  · rw [readLength_iff]
    cases hc : sizeCode n .memoryRead with
    | none =>
      exact .inr (.inl ⟨by simp, readCycle_of_badLength h hc a, readCycle_of_badLength h hc b⟩)
    | some c =>
      rcases readCycle_all a n s with ⟨hp', -⟩ | ⟨-, hd', -⟩ | ⟨-, hc', -⟩ |
        ⟨-, x, r, tgt, hans, hr, hg, -, -, hrun⟩ |
        ⟨-, bytes, t, _, rfl, -, -, ⟨x, r, y, tgt, hans, hr, rfl⟩, hrun⟩
      · simp [hp] at hp'
      · simp [hd] at hd'
      · simp [hc] at hc'
      · rw [readAnswers_congr hab] at hans
        exact .inr (.inr (.inl ⟨⟨c, rfl⟩, x, r, tgt, hrun, readCycle_of_badSync hp hd hc hans hr hg⟩))
      · rw [readAnswers_congr hab] at hans
        exact .inr (.inr (.inr ⟨⟨c, rfl⟩, bytes, x, r, t, y, tgt, hrun,
          readCycle_of_readRuns hp hd hc ⟨x, r, y, tgt, hans, hr, rfl⟩⟩))

/-- Write cycles at the two addresses end alike: at the same check, or on the same answers. -/
theorem writeCycle_congr (bytes : List Byte) (s : State) :
    (∃ f, writeCycle a bytes s = .faulted f ∧ writeCycle b bytes s = .faulted f) ∨
    (bytes.length ∉ [1, 2, 4] ∧
      writeCycle a bytes s = .raised (.badBlockLength .memoryWrite bytes.length) s ∧
      writeCycle b bytes s = .raised (.badBlockLength .memoryWrite bytes.length) s) ∨
    (bytes.length ∈ [1, 2, 4] ∧ ∃ check v vs tgt,
      writeCycle a bytes s = .raised (.syncError check .memoryWrite a v) (writeAborted a bytes vs tgt s) ∧
      writeCycle b bytes s = .raised (.syncError check .memoryWrite b v) (writeAborted b bytes vs tgt s)) ∨
    (bytes.length ∈ [1, 2, 4] ∧ ∃ x y tgt, writeCycle a bytes s = .ok () (writeDone a bytes x y tgt s) ∧
      writeCycle b bytes s = .ok () (writeDone b bytes x y tgt s)) := by
  have hfault : ∀ f, readyChecks s = .faulted f →
      ∃ f, writeCycle a bytes s = .faulted f ∧ writeCycle b bytes s = .faulted f := fun f h =>
    ⟨f, writeCycle_of_faulted h a bytes, writeCycle_of_faulted h b bytes⟩
  rcases readyChecks_cases s with ⟨-, h⟩ | ⟨-, -, h⟩ | ⟨hp, hd, h⟩
  · exact .inl (hfault _ h)
  · exact .inl (hfault _ h)
  · rw [writeLength_iff]
    cases hc : sizeCode bytes.length .memoryWrite with
    | none =>
      exact .inr (.inl ⟨by simp, writeCycle_of_badLength h hc a, writeCycle_of_badLength h hc b⟩)
    | some c =>
      rcases writeCycle_all a bytes s with ⟨hp', -⟩ | ⟨-, hd', -⟩ | ⟨-, hc', -⟩ |
        ⟨-, -, -, x, r, tgt, hans, hr, hrun⟩ | ⟨-, -, -, x, t, tgt, hans, ht, hrun⟩ |
        ⟨-, -, -, _, ⟨x, y, tgt, hans, rfl⟩, hrun⟩
      · simp [hp] at hp'
      · simp [hd] at hd'
      · simp [hc] at hc'
      · rw [writeAnswers_congr hab] at hans
        exact .inr (.inr (.inl ⟨⟨c, rfl⟩, _, _, _, tgt, hrun, writeCycle_of_badSync hp hd hc hans hr⟩))
      · rw [writeAnswers_congr hab] at hans
        exact .inr (.inr (.inl ⟨⟨c, rfl⟩, _, _, _, tgt, hrun, writeCycle_of_badTar hp hd hc hans ht⟩))
      · rw [writeAnswers_congr hab] at hans
        exact .inr (.inr (.inr ⟨⟨c, rfl⟩, x, y, tgt, hrun,
          writeCycle_of_writeRuns hp hd hc ⟨x, y, tgt, hans, rfl⟩⟩))

end

section

variable {a b : Addr} {s t : State} (hab : frameAddr a = frameAddr b)

include hab

/-- A read cycle that answers a next state answers it at the other address, with that address put in. -/
theorem exec_readCycle_congr {n : Nat} (h : exec (.readCycle a n) s = .next t) :
    ∃ (o : OpOutcome) (reports : List Report), t.results = s.results ++ [o] ∧
      t.reports = s.reports ++ reports ∧ o.naming a = o ∧ reports.map (·.naming a) = reports ∧
      exec (.readCycle b n) s = .next { t with
        addr := if n ∈ [1, 2, 4, 16, 128] then b else s.addr
        reports := s.reports ++ reports.map (·.naming b)
        results := s.results ++ [o.naming b] } := by
  simp only [exec, execReadCycle] at h ⊢
  rcases readCycle_congr hab n s with ⟨f, ha, -⟩ | ⟨hn, ha, hb⟩ | ⟨hn, x, r, tgt, ha, hb⟩ |
    ⟨hn, bytes, x, r, tar, y, tgt, ha, hb⟩ <;> rw [ha] at h
  · cases h
  · obtain rfl := Host.Outcome.next.inj h
    refine ⟨_, [], rfl, (List.append_nil _).symm, rfl, rfl, ?_⟩
    rw [hb, if_neg hn, List.map_nil, List.append_nil]; rfl
  · obtain rfl := Host.Outcome.next.inj h
    refine ⟨_, [], rfl, (List.append_nil _).symm, rfl, rfl, ?_⟩
    rw [hb, if_pos hn, readAborted_congr hab, List.map_nil, List.append_nil]; rfl
  · obtain rfl := Host.Outcome.next.inj h
    refine ⟨_, readReports a r tar, rfl, readDone_reports a bytes x r tar y tgt s, rfl,
      readReports_naming .., ?_⟩
    rw [hb, if_pos hn, readDone_congr hab, readReports_naming]; rfl

/-- A write cycle that answers a next state answers it at the other address, with that address put in. -/
theorem exec_writeCycle_congr {bytes : List Byte} (h : exec (.writeCycle a bytes) s = .next t) :
    ∃ o : OpOutcome, t.results = s.results ++ [o] ∧ o.naming a = o ∧
      exec (.writeCycle b bytes) s = .next { t with
        addr := if bytes.length ∈ [1, 2, 4] then b else s.addr
        results := s.results ++ [o.naming b] } := by
  simp only [exec, execWriteCycle] at h ⊢
  rcases writeCycle_congr hab bytes s with ⟨f, ha, -⟩ | ⟨hn, ha, hb⟩ | ⟨hn, check, v, vs, tgt, ha, hb⟩ |
    ⟨hn, x, y, tgt, ha, hb⟩ <;> rw [ha] at h
  · cases h
  · obtain rfl := Host.Outcome.next.inj h
    refine ⟨_, rfl, rfl, ?_⟩
    rw [hb, if_neg hn]; rfl
  · obtain rfl := Host.Outcome.next.inj h
    refine ⟨_, rfl, rfl, ?_⟩
    rw [hb, if_pos hn, writeAborted, writeSent_congr hab]; rfl
  · obtain rfl := Host.Outcome.next.inj h
    refine ⟨_, rfl, rfl, ?_⟩
    rw [hb, if_pos hn, writeDone, writeSent_congr hab]; rfl

/-- What faults at one address faults at the other: the checks read no address (R128). -/
theorem exec_readCycle_fault_congr {n : Nat} {f : Fault} (h : exec (.readCycle a n) s = .fault f) :
    exec (.readCycle b n) s = .fault f := by
  simp only [exec, execReadCycle] at h ⊢
  rcases readCycle_congr hab n s with ⟨g, ha, hb⟩ | ⟨-, ha, -⟩ | ⟨-, x, r, tgt, ha, -⟩ |
    ⟨-, bytes, x, r, tar, y, tgt, ha, -⟩ <;> rw [ha] at h
  · rwa [hb]
  · cases h
  · cases h
  · cases h

theorem exec_writeCycle_fault_congr {bytes : List Byte} {f : Fault}
    (h : exec (.writeCycle a bytes) s = .fault f) : exec (.writeCycle b bytes) s = .fault f := by
  simp only [exec, execWriteCycle] at h ⊢
  rcases writeCycle_congr hab bytes s with ⟨g, ha, hb⟩ | ⟨-, ha, -⟩ | ⟨-, check, v, vs, tgt, ha, -⟩ |
    ⟨-, x, y, tgt, ha, -⟩ <;> rw [ha] at h
  · rwa [hb]
  · cases h
  · cases h
  · cases h

end

/-! ### The statement -/

/-- Settles O29: a frame carries bits 27..0 only, so both cycles meet the same answers. -/
theorem highAddressBitsHaveNoEffect : Obligations.HighAddressBitsHaveNoEffect :=
  ⟨fun _ _ _ _ hab => ⟨fun _ h => exec_readCycle_congr hab h, fun _ h => exec_readCycle_fault_congr hab h⟩,
    fun _ _ _ _ hab => ⟨fun _ h => exec_writeCycle_congr hab h,
      fun _ h => exec_writeCycle_fault_congr hab h⟩⟩

end Sys2Proof.Machine
end

section
/-! What the reference target makes of a frame: the frame in progress read back from the nibble log, the
answers to its target slots one by one, and the two cycles run against it. -/

namespace Sys2Proof.Machine

/-! ### The frame in progress (R92, R121) -/

/-- Some entries, and then others on the frame the first leave. -/
theorem frameEntries_append (frame es fs : List NibbleEvent) :
    frameEntries frame (es ++ fs) = frameEntries (frameEntries frame es) fs := by
  induction es generalizing frame with
  | nil => rfl
  | cons e es ih =>
    match e with
    | .host v true => exact ih _
    | .host v false => exact ih _
    | .target v => exact ih _

/-- Host slots with LFRAME deasserted go on with the frame that has begun (R83). -/
theorem frameEntries_hosts (f : NibbleEvent) (fs : List NibbleEvent) (vs : List Nibble) :
    frameEntries (f :: fs) (vs.map fun v => .host v false) = f :: fs ++ vs.map fun v => .host v false := by
  induction vs generalizing fs with
  | nil => simp [frameEntries]
  | cons v vs ih =>
    rw [List.map_cons, frameEntries, extendFrame, List.cons_append, ih]
    · simp
    · simp

/-- The host slots of a cycle are a new frame, whatever the log before them (R121). -/
theorem currentFrame_hostEntries (log : List NibbleEvent) {hosts : List Nibble} (hne : hosts ≠ []) :
    currentFrame (log ++ hostEntries hosts) = hostEntries hosts := by
  cases hosts with
  | nil => exact absurd rfl hne
  | cons v vs => rw [currentFrame, frameEntries_append, hostEntries, frameEntries, frameEntries_hosts]; rfl

/-- An answer is one more entry of the frame in progress. -/
theorem currentFrame_target (log : List NibbleEvent) (v : Nibble) :
    currentFrame (log ++ [.target v]) = extendFrame (currentFrame log) (.target v) := by
  rw [currentFrame, frameEntries_append]; rfl

/-- The target has been sent `f`, and has given these answers in its slots so far (R121, R122). -/
structure Receives (f : Frame) (log : List NibbleEvent) (answers : List Nibble) : Prop where
  frame : receivedFrame log = some f
  answered : targetSlots (currentFrame log) = answers

/-- A cycle's host slots, which the target decodes up to the turnaround (R92). -/
theorem receives_of_decodeFrame {f : Frame} {hosts : List Nibble} {tar : Nibble}
    (h : decodeFrame hosts = .ok (f, [tar])) (log : List NibbleEvent) :
    Receives f (log ++ hostEntries hosts) [] := by
  have hne : hosts ≠ [] := by rintro rfl; cases h
  exact ⟨by simp [receivedFrame, currentFrame_hostEntries log hne, h],
    by simp [currentFrame_hostEntries log hne]⟩

/-- An answer leaves the frame that was sent. -/
theorem Receives.answer {f : Frame} {log : List NibbleEvent} {answers : List Nibble}
    (h : Receives f log answers) (v : Nibble) : Receives f (log ++ [.target v]) (answers ++ [v]) := by
  obtain ⟨hframe, rfl⟩ := h
  rw [receivedFrame] at hframe
  cases hcur : currentFrame log with
  | nil => simp [hcur, hostSlots, decodeFrame] at hframe
  | cons e es =>
    have hnext : currentFrame (log ++ [.target v]) = (e :: es) ++ [.target v] := by
      rw [currentFrame_target, hcur]; rfl
    constructor
    · rw [receivedFrame, hnext, hostSlots_append, ← hcur]
      simpa [hostSlots] using hframe
    · rw [hnext, targetSlots_append]; rfl

/-- Every length has the MSIZE code of a read size: a supported length that of its own, any other the code
of one byte (R76). -/
theorem exists_readCode (n : Nat) : ∃ size, codeOf n .memoryRead = readCode size := by
  simp only [codeOf, sizeCode]
  split_ifs
  exacts [⟨.b1, rfl⟩, ⟨.b2, rfl⟩, ⟨.b4, rfl⟩, ⟨.b16, rfl⟩, ⟨.b128, rfl⟩, ⟨.b1, rfl⟩]

theorem codeOf_readBytes (size : ReadLength) : codeOf (readBytes size) .memoryRead = readCode size := by
  cases size <;> rfl

theorem codeOf_dataBytes (data : WriteData) :
    codeOf (dataBytes data).length .memoryWrite = writeCode data := by
  cases data <;> rfl

/-- The target is sent the read frame whose slots the cycle clocks (R71, R92). -/
theorem receives_read (log : List NibbleEvent) (a : Addr) (size : ReadLength) :
    Receives (.read (frameAddr a) size) (log ++ hostEntries (readFrameHost a (readCode size))) [] :=
  receives_of_decodeFrame (decodeFrame_read a size [Config.tarHost]) log

/-- The target is sent the write frame whose slots the cycle clocks (R72, R92). -/
theorem receives_write (log : List NibbleEvent) (a : Addr) (data : WriteData) :
    Receives (.write (frameAddr a) data)
      (log ++ hostEntries (writeFrameHost a (codeOf (dataBytes data).length .memoryWrite) (dataBytes data)))
      [] := by
  rw [codeOf_dataBytes, writeFrameHost, List.append_assoc]
  exact receives_of_decodeFrame (decodeFrame_write a data [Config.tarHost]) log

/-! ### The reference target's answers (R69) -/

/-- The bytes a read frame asks for, from the reference target. -/
def RefTarget.bytesAt (p : Params) (rt : RefTarget) (a : FrameAddr) (n : Nat) : List Byte :=
  (List.range n).map fun k => rt.byteAt p (a + BitVec.ofNat 28 k)

/-- The answers to the target slots of a frame, in order (R69, R71, R72). -/
def RefTarget.answers (p : Params) (rt : RefTarget) : Frame → List Nibble
  | .read a size => readFrameTarget 0xF 0x0 (rt.bytesAt p a (readBytes size)) 0xF 0xF
  | .write _ _ => [0xF, 0x0, 0xF, 0xF]

@[simp] theorem RefTarget.bytesAt_length (p : Params) (rt : RefTarget) (a : FrameAddr) (n : Nat) :
    (rt.bytesAt p a n).length = n := by simp [RefTarget.bytesAt]

theorem RefTarget.getElem_bytesAt {p : Params} {rt : RefTarget} {a : FrameAddr} {n k : Nat}
    (hk : k < (rt.bytesAt p a n).length) :
    (rt.bytesAt p a n)[k] = rt.byteAt p (a + BitVec.ofNat 28 k) := by simp [RefTarget.bytesAt]

theorem RefTarget.bytesAt_one (p : Params) (rt : RefTarget) (a : FrameAddr) :
    rt.bytesAt p a 1 = [rt.byteAt p a] := by simp [RefTarget.bytesAt]

theorem RefTarget.answers_length (p : Params) (rt : RefTarget) (f : Frame) :
    (rt.answers p f).length = frameTargetSlots f := by
  cases f <;> simp [RefTarget.answers, frameTargetSlots]

/-- Slot `j` of a data field is a nibble of byte `j / 2`, the low one first (R77, R78). -/
theorem getElem?_putBytes (bs : List Byte) (j : Nat) :
    (putBytes bs)[j]? = bs[j / 2]?.map fun b => if j % 2 = 0 then loNibble b else hiNibble b := by
  induction bs generalizing j with
  | nil => simp [putBytes]
  | cons b bs ih =>
    match j with
    | 0 => rfl
    | 1 => rfl
    | j + 2 => simp [putBytes, ih]

/-- The answer in each slot is the listed one. -/
theorem RefTarget.answer_eq (p : Params) (rt : RefTarget) (f : Frame) (k : Nat) :
    rt.answer p f k = (rt.answers p f)[k]? := by
  cases f with
  | write a data =>
    match k with
    | 0 | 1 | 2 | 3 => rfl
    | k + 4 => simp [RefTarget.answer, RefTarget.answers]
  | read a size =>
    match k with
    | 0 | 1 => rfl
    | k + 2 =>
      have hbytes := rt.bytesAt_length p a (readBytes size)
      have hslot : (rt.answers p (.read a size))[k + 2]? =
          (putBytes (rt.bytesAt p a (readBytes size)) ++ [0xF, 0xF])[k]? := rfl
      rw [hslot, RefTarget.answer, if_neg (by omega), if_neg (by omega), Nat.add_sub_cancel]
      by_cases hdata : k < 2 * readBytes size
      · have hk : k / 2 < readBytes size := by omega
        rw [if_pos (by omega), List.getElem?_append_left (by simpa using hdata), getElem?_putBytes]
        simp [RefTarget.bytesAt, hk]
      · obtain ⟨j, rfl⟩ := Nat.exists_eq_add_of_le (Nat.le_of_not_lt hdata)
        rw [if_neg (by omega), List.getElem?_append_right (by simp), putBytes_length, hbytes,
          Nat.add_sub_cancel_left]
        match j with
        | 0 | 1 => exact if_pos (by omega)
        | j + 2 => exact if_neg (by omega)

/-- The reference target's answer in one slot, and its effect on itself at the frame's last (log 15). -/
theorem RefTarget.draw_eq {f : Frame} {log : List NibbleEvent} {answers : List Nibble}
    (h : Receives f log answers) {p : Params} {rt : RefTarget} {v : Nibble}
    (hv : (rt.answers p f)[answers.length]? = some v) :
    rt.draw p log = (v, if answers.length + 1 = frameTargetSlots f then rt.complete p f else rt) := by
  simp only [RefTarget.draw, h.frame, h.answered, RefTarget.answer_eq, hv]

/-- The reference target's remaining answers to a frame, the last of them with the frame's effect. -/
theorem reference_draws_rest {f : Frame} {p : Params} {rt : RefTarget} (v : Nibble) (vs : List Nibble)
    {log : List NibbleEvent} {answers : List Nibble} (h : Receives f log answers)
    (hvs : rt.answers p f = answers ++ v :: vs) :
    (Target.reference rt).draws p (v :: vs).length log = (v :: vs, .reference (rt.complete p f)) := by
  have hslots : answers.length + (vs.length + 1) = frameTargetSlots f := by
    rw [← rt.answers_length p f, hvs]; simp
  have hv : (rt.answers p f)[answers.length]? = some v := by simp [hvs]
  have hdraw := RefTarget.draw_eq h hv
  cases vs with
  | nil => simp [draws_succ, Target.draw, hdraw, ← hslots]
  | cons w ws =>
    have hrest := reference_draws_rest w ws (h.answer v) (by simpa using hvs)
    rw [if_neg (by simp only [List.length_cons] at hslots; omega)] at hdraw
    rw [List.length_cons, draws_succ, Target.draw, hdraw, hrest]

/-- The reference target's answers to a whole frame, and the target after it (R69). -/
theorem reference_draws {f : Frame} {log : List NibbleEvent} (h : Receives f log []) (p : Params)
    (rt : RefTarget) : (Target.reference rt).draws p (frameTargetSlots f) log =
      (rt.answers p f, .reference (rt.complete p f)) := by
  cases hvs : rt.answers p f with
  | nil => cases f <;> simp [RefTarget.answers, readFrameTarget] at hvs
  | cons v vs =>
    rw [← rt.answers_length p f, hvs]
    exact reference_draws_rest v vs h hvs

/-! ### The two cycles against the reference target -/

theorem sizeCode_readBytes (size : ReadLength) :
    sizeCode (readBytes size) .memoryRead = some (readCode size) := by cases size <;> rfl

theorem sizeCode_dataBytes (data : WriteData) :
    sizeCode (dataBytes data).length .memoryWrite = some (writeCode data) := by cases data <;> rfl

section

variable {s : State} {rt : RefTarget} (ht : s.target = .reference rt)

include ht

/-- On the reference target's answers a read cycle runs to its end (R69). -/
theorem readRuns_reference (a : Addr) (size : ReadLength) :
    ∃ t, readRuns a (rt.bytesAt s.params (frameAddr a) (readBytes size)) 0xF s t ∧
      t.target = .reference (rt.complete s.params (.read (frameAddr a) size)) := by
  refine ⟨_, ⟨0xF, 0x0, 0xF, _, ?_, .inl rfl, rfl⟩, rfl⟩
  rw [State.readAnswers, ht, readFrameTarget_length, rt.bytesAt_length, codeOf_readBytes]
  exact reference_draws (receives_read s.nibbles a size) s.params rt

/-- On the reference target's answers a write cycle runs to its end (R69). -/
theorem writeRuns_reference (a : Addr) (data : WriteData) :
    ∃ t, writeRuns a (dataBytes data) s t ∧
      t.target = .reference (rt.complete s.params (.write (frameAddr a) data)) := by
  refine ⟨_, ⟨0xF, 0xF, _, ?_, rfl⟩, rfl⟩
  rw [State.writeAnswers, ht]
  exact reference_draws (receives_write s.nibbles a data) s.params rt

variable (hr : s.ready = true)

include hr

/-- A read cycle of a ready engine returns the reference target's bytes, without a warning. -/
theorem readCycle_reference (a : Addr) (size : ReadLength) :
    ∃ t, readCycle a (readBytes size) s =
        .ok (rt.bytesAt s.params (frameAddr a) (readBytes size), false) t ∧
      SameEngine s t ∧ t.target = .reference (rt.complete s.params (.read (frameAddr a) size)) := by
  obtain ⟨t, hruns, htarget⟩ := readRuns_reference ht a size
  obtain ⟨hp, hd⟩ := (ready_iff s).1 hr
  have hlen := rt.bytesAt_length s.params (frameAddr a) (readBytes size)
  have hrun := readCycle_of_readRuns hp hd (hlen.symm ▸ sizeCode_readBytes size) hruns
  rw [hlen] at hrun
  exact ⟨t, hrun, readRuns_same hruns, htarget⟩

/-- A write cycle of a ready engine runs to its end against the reference target. -/
theorem writeCycle_reference (a : Addr) (data : WriteData) :
    ∃ t, writeCycle a (dataBytes data) s = .ok () t ∧
      SameEngine s t ∧ t.target = .reference (rt.complete s.params (.write (frameAddr a) data)) := by
  obtain ⟨t, hruns, htarget⟩ := writeRuns_reference ht a data
  obtain ⟨hp, hd⟩ := (ready_iff s).1 hr
  exact ⟨t, writeCycle_of_writeRuns hp hd (sizeCode_dataBytes data) hruns, writeRuns_same hruns, htarget⟩

end

end Sys2Proof.Machine
end

section
/-! The reference target's memory: what a write cycle stores, what a read cycle reads back, and the
operations that store nothing. -/

namespace Sys2Proof.Machine

/-! ### What a write cycle stores (R69) -/

/-- The status command selects the status register and stores nothing. -/
theorem RefTarget.complete_status {p : Params} {a : FrameAddr} (ha : a = frameAddr p.statusAddr)
    (rt : RefTarget) :
    rt.complete p (.write a (.one Config.statusCmd)) = { rt with statusMode := true } :=
  if_pos ⟨ha, rfl⟩

/-- Any other write is stored. -/
theorem RefTarget.complete_store {p : Params} {a : FrameAddr} {data : WriteData}
    (h : ¬(a = frameAddr p.statusAddr ∧ data = .one Config.statusCmd)) (rt : RefTarget) :
    rt.complete p (.write a data) = { rt with mem := rt.mem.writeList a (dataBytes data) } :=
  if_neg h

theorem dataBytes_length_le (data : WriteData) : (dataBytes data).length ≤ 2 ^ 28 := by
  cases data <;> simp [dataBytes]

/-- Settles O50: the cycle runs to its end and leaves the target as the frame's effect says. -/
theorem referenceTargetStoresOnlyTheBytesWritten :
    Obligations.ReferenceTargetStoresOnlyTheBytesWritten := by
  intro a data rt s hr ht hwf
  obtain ⟨t, hrun, -, htarget⟩ := writeCycle_reference ht hr a data
  refine ⟨record (.returned .unit) t, _, by rw [exec, execWriteCycle, hrun]; rfl, htarget, ?_, ?_⟩
  · rintro ⟨ha, rfl⟩
    rw [show (0x70 : Byte) = Config.statusCmd from rfl, RefTarget.complete_status ha]
    exact ⟨rfl, rfl⟩
  · intro hstored
    rw [RefTarget.complete_store hstored]
    exact ⟨fun k hk => Memory.read_writeList hwf.1 _ _ (dataBytes_length_le data) k hk,
      fun x hx => Memory.read_writeList_other hwf.1 _ _ x hx⟩

/-! ### What a read cycle reads back (R69) -/

/-- Away from the identification and the status address a byte is the memory's (R69). -/
theorem RefTarget.byteAt_mem {p : Params} {x : FrameAddr} (hm : x ≠ frameAddr p.mfrIdAddr)
    (hc : x ≠ frameAddr p.chipIdAddr) (rt : RefTarget)
    (hst : rt.statusMode = true → x ≠ frameAddr p.statusAddr) : rt.byteAt p x = rt.mem.read x := by
  rw [RefTarget.byteAt, if_neg (fun h => hst h.1 h.2), if_neg hm, if_neg hc]

/-- None of the `n` bytes from `a` on lies at an identification or the status address. -/
def PlainBytes (p : Params) (a : FrameAddr) (n : Nat) : Prop :=
  ∀ k < n, a + BitVec.ofNat 28 k ≠ frameAddr p.mfrIdAddr ∧ a + BitVec.ofNat 28 k ≠ frameAddr p.chipIdAddr ∧
    a + BitVec.ofNat 28 k ≠ frameAddr p.statusAddr

/-- Plain bytes just stored are read back. -/
theorem RefTarget.bytesAt_stored {p : Params} {a : FrameAddr} {data : WriteData} {rt : RefTarget}
    (hwf : rt.mem.wf) (hplain : PlainBytes p a (dataBytes data).length) :
    (rt.complete p (.write a data)).bytesAt p a (dataBytes data).length = dataBytes data := by
  have hstatus : a ≠ frameAddr p.statusAddr := by
    obtain ⟨-, -, hst⟩ := hplain 0 (by cases data <;> simp [dataBytes])
    simpa using hst
  rw [RefTarget.complete_store fun h => hstatus h.1]
  refine List.ext_getElem (RefTarget.bytesAt_length ..) fun k _ hk => ?_
  obtain ⟨hm, hc, hst⟩ := hplain k hk
  rw [RefTarget.getElem_bytesAt, RefTarget.byteAt_mem hm hc _ fun _ => hst,
    Memory.read_writeList hwf.1 a _ (dataBytes_length_le data) k hk, List.getD_eq_getElem _ _ hk]

/-- The bytes of a write are as many as a read size has. -/
theorem exists_readBytes_eq (data : WriteData) : ∃ size, readBytes size = (dataBytes data).length := by
  cases data
  exacts [⟨.b1, rfl⟩, ⟨.b2, rfl⟩, ⟨.b4, rfl⟩]

/-- `readBlock` is the read cycle with its bytes as the result (R176). -/
theorem exec_readBlock_of_readCycle {a : Addr} {n : Nat} {s t : State} {bytes : List Byte} {w : Bool}
    (h : readCycle a n s = .ok (bytes, w) t) :
    exec (.readBlock a n) s = .next (record (.returned (.bytes bytes)) t) := by
  rw [exec, execReadBlock, readBlock, h]; rfl

/-- What `writeBlock` stores, `readBlock` of the same length reads back (vector L1.9). -/
theorem readBlock_after_writeBlock {a : Addr} {data : WriteData} {rt : RefTarget} {s : State}
    (hr : s.ready = true) (ht : s.target = .reference rt) (hwf : rt.mem.wf)
    (hplain : PlainBytes s.params (frameAddr a) (dataBytes data).length) :
    ∃ t u, exec (.writeBlock a (dataBytes data)) s = .next t ∧
      exec (.readBlock a (dataBytes data).length) t = .next u ∧
      u.results = s.results ++ [.returned .unit, .returned (.bytes (dataBytes data))] := by
  obtain ⟨t, hwrite, hsame, htarget⟩ := writeCycle_reference ht hr a data
  obtain ⟨size, hsize⟩ := exists_readBytes_eq data
  obtain ⟨u, hread, hsame', -⟩ := readCycle_reference (s := record (.returned .unit) t) htarget
    (hsame.ready.trans hr) a size
  rw [record_params, hsame.params, hsize, RefTarget.bytesAt_stored hwf hplain] at hread
  refine ⟨_, _, by rw [exec, execWriteBlock, writeBlock, hwrite]; rfl, exec_readBlock_of_readCycle hread, ?_⟩
  simp [hsame'.results, hsame.results]

/-- A one-byte read of a fresh reference target, the identification addresses apart (R69). -/
theorem readBlock_initial {mfr chip : Byte} {s : State} (hr : s.ready = true)
    (ht : s.target = .reference (.initial mfr chip)) {a : Addr}
    (hm : frameAddr a ≠ frameAddr s.params.mfrIdAddr) (hc : frameAddr a ≠ frameAddr s.params.chipIdAddr) :
    ∃ t, exec (.readBlock a 1) s = .next t ∧ t.results = s.results ++ [.returned (.bytes [0xFF])] := by
  obtain ⟨t, hread, hsame, -⟩ := readCycle_reference ht hr a .b1
  have hbyte : (RefTarget.initial mfr chip).byteAt s.params (frameAddr a) = 0xFF := by
    rw [RefTarget.byteAt_mem hm hc _ (by simp [RefTarget.initial])]; rfl
  rw [show readBytes .b1 = 1 from rfl, RefTarget.bytesAt_one, hbyte] at hread
  exact ⟨_, exec_readBlock_of_readCycle hread, by simp [hsame.results]⟩

/-- The status command and the read back, on the reference target's answers (R69, R171). -/
theorem statusRuns_reference {rt : RefTarget} {s : State} (ht : s.target = .reference rt) :
    ∃ t, statusRuns rt.status s t := by
  obtain ⟨u, hwrite, htarget⟩ := writeRuns_reference ht s.params.statusAddr (.one Config.statusCmd)
  rw [RefTarget.complete_status rfl] at htarget
  obtain ⟨t, hread, -⟩ := readRuns_reference htarget s.params.statusAddr .b1
  have hstatus : RefTarget.byteAt u.params { rt with statusMode := true } (frameAddr s.params.statusAddr) =
      rt.status := if_pos ⟨rfl, by rw [(writeRuns_same hwrite).params]⟩
  rw [show readBytes .b1 = 1 from rfl, RefTarget.bytesAt_one, hstatus] at hread
  exact ⟨t, u, 0xF, hwrite, hread⟩

/-- Settles O49: the read cycle finds the memory as the write cycle left it. -/
theorem referenceTargetReadsBackWhatWasWritten : Obligations.ReferenceTargetReadsBackWhatWasWritten := by
  refine ⟨fun a data rt s hr ht hwf hplain => readBlock_after_writeBlock hr ht hwf hplain,
    fun mfr chip s hr ht => ⟨fun a hm hc => readBlock_initial hr ht hm hc, ?_⟩⟩
  obtain ⟨t, hruns⟩ := statusRuns_reference ht
  refine ⟨_, by rw [exec, execReadStatusRegister, readStatusRegister_of_statusRuns hr hruns]; rfl, ?_⟩
  rw [record_results, (statusRuns_same hruns).results]
  rfl

/-! ### Operations that store nothing (R69) -/

/-- A frame of which nothing is stored, whatever the memory. -/
def StoresNothing (p : Params) (f : Frame) : Prop := ∀ rt, (RefTarget.complete p rt f).mem = rt.mem

theorem storesNothing_read (p : Params) (a : FrameAddr) (size : ReadLength) :
    StoresNothing p (.read a size) := fun _ => rfl

theorem storesNothing_status (p : Params) :
    StoresNothing p (.write (frameAddr p.statusAddr) (.one Config.statusCmd)) := fun rt => by
  rw [RefTarget.complete_status rfl]

section

variable {p : Params} {f : Frame} (hf : StoresNothing p f)

include hf

theorem RefTarget.draw_mem {log : List NibbleEvent} {answers : List Nibble} (h : Receives f log answers)
    (rt : RefTarget) : (rt.draw p log).2.mem = rt.mem := by
  cases hv : (rt.answers p f)[answers.length]? with
  | none => simp only [RefTarget.draw, h.frame, h.answered, RefTarget.answer_eq, hv]
  | some v =>
    rw [RefTarget.draw_eq h hv]
    split_ifs
    · exact hf rt
    · rfl

/-- While such a frame is in progress the target's answers leave its memory. -/
theorem targetMemory_draws {log : List NibbleEvent} {answers : List Nibble} (h : Receives f log answers)
    (k : Nat) (t : Target) : targetMemory (t.draws p k log).2 = targetMemory t := by
  induction k generalizing log answers t with
  | zero => rfl
  | succ k ih =>
    rw [draws_succ, ih (h.answer _)]
    match t with
    | .oracle [] => rfl
    | .oracle (v :: vs) => rfl
    | .reference rt => exact congrArg some (RefTarget.draw_mem hf h rt)

end

theorem targetMemory_of_readAnswers {s : State} {a : Addr} {n : Nat} {vs : List Nibble} {tgt : Target}
    (h : s.readAnswers a n vs tgt) : targetMemory tgt = targetMemory s.target := by
  obtain ⟨size, hsize⟩ := exists_readCode n
  rw [State.readAnswers, hsize] at h
  exact (congrArg (targetMemory ·.2) h).symm.trans (targetMemory_draws
    (storesNothing_read s.params _ size) (receives_read s.nibbles a size) vs.length s.target)

theorem targetMemory_of_statusAnswers {s : State} {vs : List Nibble} {tgt : Target}
    (h : s.writeAnswers s.params.statusAddr [Config.statusCmd] vs tgt) :
    targetMemory tgt = targetMemory s.target := by
  rw [State.writeAnswers] at h
  exact (congrArg (targetMemory ·.2) h).symm.trans (targetMemory_draws (storesNothing_status s.params)
    (receives_write s.nibbles s.params.statusAddr (.one Config.statusCmd)) vs.length s.target)

/-- A read cycle stores nothing, however it ends. -/
theorem readCycle_targetMemory {a : Addr} {n : Nat} {s : State} :
    (readCycle a n s).All fun t => targetMemory t.target = targetMemory s.target :=
  readCycle_keeps rfl (fun _ _ _ _ hans _ _ _ _ => targetMemory_of_readAnswers hans)
    fun _ _ _ _ _ _ _ ⟨_, _, _, _, hans, _, hu⟩ => hu ▸ targetMemory_of_readAnswers hans

/-- The status command's write cycle stores nothing, however it ends (R171). -/
theorem statusCommand_targetMemory {s : State} :
    (writeCycle s.params.statusAddr [Config.statusCmd] s).All fun t =>
      targetMemory t.target = targetMemory s.target :=
  writeCycle_keeps rfl (fun _ _ _ hans _ _ _ => targetMemory_of_statusAnswers hans)
    fun _ _ _ _ ⟨_, _, _, hans, hu⟩ => hu ▸ targetMemory_of_statusAnswers hans

theorem readStatusRegister_targetMemory {s : State} :
    (readStatusRegister s).All fun t => targetMemory t.target = targetMemory s.target :=
  statusCommand_targetMemory.bind fun _ _ hu =>
    (readCycle_targetMemory.imp fun _ hv => hv.trans hu).bind fun _ _ h => h

/-- What a status read keeps, a poll keeps (R172). -/
theorem waitForWriteComplete_keeps {P : State → Prop} {s t : State} (hs : (readStatusRegister s).All P)
    (hrecord : ∀ o s, P s → P (record o s)) (hpoll : ∀ n s, P s → P (setPolls n (delay .poll s)))
    (h : exec .waitForWriteComplete s = .next t) : P t := by
  rw [exec, execWaitForWriteComplete] at h
  cases hread : readStatusRegister s with
  | ok status u =>
    rw [hread] at hs h
    simp only [afterPoll] at h
    split_ifs at h
    · exact Host.Outcome.next.inj h ▸ hrecord _ u hs
    · exact Host.Outcome.next.inj h ▸ hrecord _ u hs
    · exact Host.Outcome.next.inj h ▸ hpoll _ u hs
  | raised e u =>
    rw [hread] at hs h
    exact Host.Outcome.next.inj h ▸ hrecord _ u hs
  | faulted f => rw [hread] at h; cases h

/-- The operations that store nothing and still issue a write cycle: that of the status command. -/
theorem writesStatus_of_storesNothing {i : Instr} (hi : storesToTarget i = false)
    (hw : writesTarget i = true) : i = .readStatusRegister ∨ i = .waitForWriteComplete := by
  cases i <;> simp_all [storesToTarget, writesTarget]

theorem targetMemory_resetPulse (t : Target) : targetMemory t.resetPulse = targetMemory t := by
  cases t <;> rfl

/-- Each part of an operation that issues no write cycle and is not `readNibble` leaves the memory. -/
theorem keptBy_targetMemory {i : Instr} (hi : storesToTarget i = false) (hw : writesTarget i = false)
    (m : Option Memory) : KeptBy i fun t => targetMemory t.target = m where
  read _ _ _ _ h := readCycle_targetMemory.imp fun _ hu => hu.trans h
  write hwrites := by simp [hw] at hwrites
  device _ _ _ _ h := h
  poll _ _ _ h := h
  record _ _ h := h
  setLinesOutput _ _ h := h
  setLinesInput z _ u h := by rwa [setLinesInput_target]
  assertFrame _ _ _ h := h
  setClock _ _ _ h := h
  busInit _ u h := by rwa [busInit_eq, targetMemory_resetPulse]
  writeNibble _ _ _ _ h := h
  readNibble hread := by simp [hread, storesToTarget] at hi

/-- Settles O51: read frames and the status command store nothing, and no other frame is sent. -/
theorem otherOperationsLeaveTargetMemory : Obligations.OtherOperationsLeaveTargetMemory := by
  intro i s t hi h
  cases hw : writesTarget i with
  | false => exact exec_keeps (keptBy_targetMemory hi hw _) rfl h
  | true =>
    rcases writesStatus_of_storesNothing hi hw with rfl | rfl
    · exact finish_next (fun _ _ h => h) readStatusRegister_targetMemory h
    · exact waitForWriteComplete_keeps readStatusRegister_targetMemory (fun _ _ h => h)
        (fun _ _ h => h) h

end Sys2Proof.Machine
end

section
/-! Instructions and their words: each instruction read back from its encoding, and the words any
instruction was read from. -/

namespace Sys2Proof

open Sys2Proof.Machine

/-! ### The layer a call's first word names (log 3) -/

section

variable (op : Nibble) (ws : List Nibble)

theorem decodeCall_signal : decodeCall (0x1#4 :: op :: ws) = decodeSignal op ws := rfl
theorem decodeCall_transport : decodeCall (0x2#4 :: op :: ws) = decodeTransport op ws := rfl
theorem decodeCall_cycle : decodeCall (0x3#4 :: op :: ws) = decodeCycle op ws := rfl
theorem decodeCall_device : decodeCall (0x4#4 :: op :: ws) = decodeDevice op ws := rfl
theorem decodeCall_block : decodeCall (0x5#4 :: op :: ws) = decodeBlock op ws := rfl

end

/-- START decides: 0xD a read frame, 0xE a write frame, and nothing else a frame (R73, R84). -/
theorem decodeFrame_start {start : Nibble} {ws rest : List Nibble} {f : Frame}
    (h : decodeFrame (start :: ws) = .ok (f, rest)) :
    start = Config.startRead ∨ start = Config.startWrite := by
  rw [decodeFrame] at h
  split_ifs at h with hread hwrite
  · exact .inl hread
  · exact .inr hwrite

/-- Words that are a frame's are a line that runs the frame (log 4). -/
theorem decodeCall_of_decodeFrame {ws rest : List Nibble} {f : Frame} (h : decodeFrame ws = .ok (f, rest)) :
    decodeCall ws = .ok (frameInstr f, rest) := by
  cases ws with
  | nil => cases h
  | cons start ws => rw [decodeCall, if_pos (decodeFrame_start h), h, andThen_ok]

/-- An instruction is read back from its words, whatever follows them. -/
theorem decodeCall_encode (i : Instr) (rest : List Nibble) : decodeCall (encode i ++ rest) = .ok (i, rest) := by
  cases i with
  | setLinesOutput | busInit | readNibble | readDeviceIds | readStatusRegister | waitForWriteComplete
  | identify | unlockForWrite | unlockForRead => rfl
  | setLinesInput z => simp [encode, decodeCall_signal, decodeSignal]
  | assertFrame a => simp [encode, decodeCall_signal, decodeSignal]
  | setClock l => simp [encode, decodeCall_signal, decodeSignal]
  | writeNibble v f => simp [encode, decodeCall_transport, decodeTransport, takeNibble]
  | sizeCode n k => simp [encode, decodeCall_cycle, decodeCycle]
  | readCycle a n => simp [encode, decodeCall_cycle, decodeCycle]
  | writeCycle a bs => simp [encode, decodeCall_cycle, decodeCycle]
  | findDevice m c => simp [encode, decodeCall_device, decodeDevice]
  | executeUnlockSequence d f => simp [encode, decodeCall_device, decodeDevice]
  | readBlock a n => simp [encode, decodeCall_block, decodeBlock]
  | writeBlock a bs => simp [encode, decodeCall_block, decodeBlock]
  | readFrame a size =>
    have h := decodeFrame_read (wideAddr a) size rest
    rw [frameAddr_wideAddr] at h
    exact decodeCall_of_decodeFrame h
  | writeFrame a data =>
    have h := decodeFrame_write (wideAddr a) data rest
    rw [frameAddr_wideAddr] at h
    rw [encode, List.append_assoc]
    exact decodeCall_of_decodeFrame h

/-- A line is its instruction when nothing but zero words follows it (log 4). -/
theorem decode_of_decodeCall {line : List Nibble} {i : Instr} {k : Nat}
    (h : decodeCall line = .ok (i, List.replicate k 0x0)) : decode line = .ok i := by
  simp [decode, h]

/-- Settles O4. -/
theorem decodeOfEncodeIsTheInstruction : Obligations.DecodeOfEncodeIsTheInstruction :=
  fun i => ⟨decodeCall_encode i, fun _ => decode_of_decodeCall (decodeCall_encode i _)⟩

/-! ### The words an instruction was read from -/

section

variable {op : Nibble} {ws rest : List Nibble} {i : Instr}

theorem decodeSignal_ok (h : decodeSignal op ws = .ok (i, rest)) :
    0x1 :: op :: ws = encode i ++ rest := by
  rw [decodeSignal] at h
  split_ifs at h with h0 h1 h2 h3 h4
  · subst h0; cases h; rfl
  · obtain ⟨z, w, hz, h⟩ := andThen_eq_ok.1 h
    cases h
    rw [h1, takeFlag_ok hz]; rfl
  · obtain ⟨a, w, ha, h⟩ := andThen_eq_ok.1 h
    cases h
    rw [h2, takeFlag_ok ha]; rfl
  · obtain ⟨l, w, hl, h⟩ := andThen_eq_ok.1 h
    cases h
    rw [h3, takeLevel_ok hl]; rfl
  · subst h4; cases h; rfl

theorem decodeTransport_ok (h : decodeTransport op ws = .ok (i, rest)) :
    0x2 :: op :: ws = encode i ++ rest := by
  rw [decodeTransport] at h
  split_ifs at h with h0 h1
  · obtain ⟨v, w, hv, h⟩ := andThen_eq_ok.1 h
    obtain ⟨f, w', hf, h⟩ := andThen_eq_ok.1 h
    cases h
    rw [h0, takeNibble_ok hv, takeFlag_ok hf]; rfl
  · subst h1; cases h; rfl

theorem decodeCycle_ok (h : decodeCycle op ws = .ok (i, rest)) :
    0x3 :: op :: ws = encode i ++ rest := by
  rw [decodeCycle] at h
  split_ifs at h with h0 h1 h2
  · obtain ⟨n, w, hn, h⟩ := andThen_eq_ok.1 h
    obtain ⟨k, w', hk, h⟩ := andThen_eq_ok.1 h
    cases h
    rw [h0, takeCount_ok hn, takeKind_ok hk]; simp [encode]
  · obtain ⟨a, w, ha, h⟩ := andThen_eq_ok.1 h
    obtain ⟨n, w', hn, h⟩ := andThen_eq_ok.1 h
    cases h
    rw [h1, takeWord_ok ha, takeCount_ok hn]; simp [encode]
  · obtain ⟨a, w, ha, h⟩ := andThen_eq_ok.1 h
    obtain ⟨bs, w', hbs, h⟩ := andThen_eq_ok.1 h
    cases h
    rw [h2, takeWord_ok ha, takeByteList_ok hbs]; simp [encode]

theorem decodeDevice_ok (h : decodeDevice op ws = .ok (i, rest)) :
    0x4 :: op :: ws = encode i ++ rest := by
  rw [decodeDevice] at h
  split_ifs at h with h0 h1 h2 h3 h4
  · obtain ⟨m, w, hm, h⟩ := andThen_eq_ok.1 h
    obtain ⟨c, w', hc, h⟩ := andThen_eq_ok.1 h
    cases h
    rw [h0, takeByte_ok hm, takeByte_ok hc]; rfl
  · subst h1; cases h; rfl
  · obtain ⟨d, w, hd, h⟩ := andThen_eq_ok.1 h
    obtain ⟨f, w', hf, h⟩ := andThen_eq_ok.1 h
    cases h
    rw [h2, takeDescriptor_ok hd, takeFlag_ok hf]; simp [encode]
  · subst h3; cases h; rfl
  · subst h4; cases h; rfl

theorem decodeBlock_ok (h : decodeBlock op ws = .ok (i, rest)) :
    0x5 :: op :: ws = encode i ++ rest := by
  rw [decodeBlock] at h
  split_ifs at h with h0 h1 h2 h3 h4
  · subst h0; cases h; rfl
  · subst h1; cases h; rfl
  · subst h2; cases h; rfl
  · obtain ⟨a, w, ha, h⟩ := andThen_eq_ok.1 h
    obtain ⟨n, w', hn, h⟩ := andThen_eq_ok.1 h
    cases h
    rw [h3, takeWord_ok ha, takeCount_ok hn]; simp [encode]
  · obtain ⟨a, w, ha, h⟩ := andThen_eq_ok.1 h
    obtain ⟨bs, w', hbs, h⟩ := andThen_eq_ok.1 h
    cases h
    rw [h4, takeWord_ok ha, takeByteList_ok hbs]; simp [encode]

/-- A frame is read from its header and data and from no other words (R88). -/
theorem decodeFrame_ok {f : Frame} (h : decodeFrame ws = .ok (f, rest)) :
    ws = encode (frameInstr f) ++ rest := by
  cases ws with
  | nil => cases h
  | cons start ws =>
    rw [decodeFrame] at h
    split_ifs at h with hread hwrite
    · obtain ⟨⟨a, code⟩, w, hheader, h⟩ := andThen_eq_ok.1 h
      obtain ⟨size, w', hsize, h⟩ := andThen_eq_ok.1 h
      cases h
      obtain ⟨hcode, rfl⟩ := readSize_ok hsize
      rw [hread, takeHeader_ok hheader, show code = readCode size from hcode]
      simp [frameInstr, encode, putHeader]
    · obtain ⟨⟨a, code⟩, w, hheader, h⟩ := andThen_eq_ok.1 h
      obtain ⟨data, w', hdata, h⟩ := andThen_eq_ok.1 h
      cases h
      obtain ⟨hcode, rfl⟩ := takeData_ok hdata
      rw [hwrite, takeHeader_ok hheader, show code = writeCode data from hcode]
      simp [frameInstr, encode, putHeader]

end

/-- Settles O5: each layer's reader, and the frame's, answers only on the words it encodes to. -/
theorem decodedWordsAreTheEncoding : Obligations.DecodedWordsAreTheEncoding := by
  intro ws rest i h
  cases ws with
  | nil => cases h
  | cons w ws =>
    rw [decodeCall] at h
    by_cases hframe : w = Config.startRead ∨ w = Config.startWrite
    · rw [if_pos hframe] at h
      obtain ⟨f, w', hf, h⟩ := andThen_eq_ok.1 h
      cases h
      exact decodeFrame_ok hf
    · rw [if_neg hframe] at h
      obtain ⟨op, w', hop, hlayer⟩ := andThen_eq_ok.1 h
      obtain rfl := takeNibble_ok hop
      split_ifs at hlayer with h1 h2 h3 h4 h5
      · exact h1 ▸ decodeSignal_ok hlayer
      · exact h2 ▸ decodeTransport_ok hlayer
      · exact h3 ▸ decodeCycle_ok hlayer
      · exact h4 ▸ decodeDevice_ok hlayer
      · exact h5 ▸ decodeBlock_ok hlayer

/-! ### Words written out, and values refused -/

/-- Settles O3. -/
theorem knownWordsDecode : Obligations.KnownWordsDecode := by
  unfold Obligations.KnownWordsDecode
  decide

/-- Slots 1 to 9 with the one IDSEL value are an address and an MSIZE code (R74, R75). -/
theorem takeHeader_words (a6 a5 a4 a3 a2 a1 a0 m : Nibble) (ws : List Nibble) :
    takeHeader (0x0#4 :: a6 :: a5 :: a4 :: a3 :: a2 :: a1 :: a0 :: m :: ws) =
      .ok ((a6 ++ a5 ++ a4 ++ a3 ++ a2 ++ a1 ++ a0, m), ws) := rfl

/-- An IDSEL other than 0x0 is refused before anything after it is read (R74, R87). -/
theorem takeHeader_badIdsel {idsel : Nibble} (h : idsel ≠ 0x0) (ws : List Nibble) :
    takeHeader (idsel :: ws) = .error .badIdsel := if_neg h

/-- The MSIZE codes a read frame never carries (R76, R85). -/
theorem readSize_reserved {m : Nibble} (h0 : m ≠ 0x0) (h1 : m ≠ 0x1) (h2 : m ≠ 0x2) (h4 : m ≠ 0x4)
    (h7 : m ≠ 0x7) (ws : List Nibble) : readSize m ws = .error .reservedMsize := by
  rw [readSize, if_neg h0, if_neg h1, if_neg h2, if_neg h4, if_neg h7]

/-- The MSIZE codes a write frame never carries (R76, R85). -/
theorem takeData_reserved {m : Nibble} (h0 : m ≠ 0x0) (h1 : m ≠ 0x1) (h2 : m ≠ 0x2) (ws : List Nibble) :
    takeData m ws = .error .reservedMsize :=
  (if_neg h0).trans ((if_neg h1).trans (if_neg h2))

/-- Settles O6: each refusal is that of the first slot whose value no frame carries. -/
theorem reservedFrameValuesRefused : Obligations.ReservedFrameValuesRefused := by
  refine ⟨fun start ws hread hwrite => ?_, fun start idsel ws hstart hidsel => ?_,
    fun a0 a1 a2 a3 a4 a5 a6 m ws h0 h1 h2 h4 h7 => ?_, fun a0 a1 a2 a3 a4 a5 a6 m ws h0 h1 h2 => ?_⟩
  · exact (if_neg hread).trans (if_neg hwrite)
  · rcases hstart with rfl | rfl <;>
      simp [decodeFrame, takeHeader_badIdsel hidsel, Config.startRead, Config.startWrite]
  · simp [decodeFrame, takeHeader_words, readSize_reserved h0 h1 h2 h4 h7, Config.startRead]
  · simp [decodeFrame, takeHeader_words, takeData_reserved h0 h1 h2, Config.startRead, Config.startWrite]

end Sys2Proof
end

section
/-! The two frame rows: the slots their cycles log, what a target decodes from them, and the cycles run to
their ends. -/

namespace Sys2Proof.Machine

/-! ### The frame a target decodes (R92, R121) -/

/-- Answers leave the frame that was sent. -/
theorem Receives.answers {f : Frame} {log : List NibbleEvent} {given : List Nibble}
    (h : Receives f log given) (answers : List Nibble) :
    Receives f (log ++ answers.map .target) (given ++ answers) := by
  induction answers generalizing log given with
  | nil => simpa using h
  | cons v vs ih => simpa using ih (h.answer v)

/-- Without a slot with LFRAME asserted no frame begins (R92). -/
theorem currentFrame_of_noStart {log : List NibbleEvent} (h : ∀ v, NibbleEvent.host v true ∉ log) :
    currentFrame log = [] := by
  induction log with
  | nil => rfl
  | cons e es ih =>
    have htail := ih fun v hv => h v (List.mem_cons_of_mem e hv)
    match e with
    | .host v true => exact absurd List.mem_cons_self (h v)
    | .host v false => exact htail
    | .target v => exact htail

/-- Settles O7: a cycle's host slots are a new frame, to which the answers add no host slot. -/
theorem targetDecodesTheEmittedFrame : Obligations.TargetDecodesTheEmittedFrame := by
  refine ⟨fun log a size answers => ?_, fun log a data answers => ?_, fun log h => ?_⟩
  · exact ((receives_read log a size).answers answers).frame
  · rw [← codeOf_dataBytes]
    exact ((receives_write log a data).answers answers).frame
  · rw [receivedFrame, currentFrame_of_noStart h]; rfl

/-! ### The slots a frame's cycle logs (R71, R72) -/

/-- A log that goes on with these host slots and then target slots only. -/
def LogsFrame (hosts : List Nibble) (s t : State) : Prop :=
  ∃ answers : List Nibble, t.nibbles = s.nibbles ++ hostEntries hosts ++ answers.map .target

/-- The log of a cycle whose host slots are some words and then 0xF, entry by entry (R79, R83). -/
theorem LogsFrame.words {start : Nibble} {words : List Nibble} {s t : State}
    (h : LogsFrame (start :: words ++ [0xF]) s t) : ∃ answers : List Nibble, t.nibbles = s.nibbles ++
      .host start true :: ((words ++ [0xF]).map (fun v => .host v false) ++ answers.map .target) := by
  obtain ⟨answers, h⟩ := h
  exact ⟨answers, by simpa [hostEntries] using h⟩

/-- A read frame's cycle always clocks its host slots: no size is refused (R71). -/
theorem readCycle_logsFrame (a : FrameAddr) (size : ReadLength) (s : State) :
    (readCycle (wideAddr a) (readBytes size) s).All
      (LogsFrame (readFrameHost (wideAddr a) (readCode size)) s) := by
  rcases readCycle_all (wideAddr a) (readBytes size) s with ⟨-, h⟩ | ⟨-, -, h⟩ | ⟨-, hc, -⟩ |
    ⟨-, x, r, tgt, -, -, -, -, -, h⟩ | ⟨-, bytes, t, u, hlen, -, -, ⟨x, r, y, tgt, -, -, rfl⟩, h⟩
  · rw [h]; trivial
  · rw [h]; trivial
  · simp [sizeCode_readBytes] at hc
  · rw [h, ← codeOf_readBytes]
    exact ⟨[x, r], rfl⟩
  · rw [h, ← codeOf_readBytes, ← hlen]
    exact ⟨readFrameTarget x r bytes t y, rfl⟩

/-- A write frame's cycle always clocks its host slots: no data is refused (R72). -/
theorem writeCycle_logsFrame (a : FrameAddr) (data : WriteData) (s : State) :
    (writeCycle (wideAddr a) (dataBytes data) s).All
      (LogsFrame (writeFrameHost (wideAddr a) (writeCode data) (dataBytes data)) s) := by
  rw [← codeOf_dataBytes]
  rcases writeCycle_all (wideAddr a) (dataBytes data) s with ⟨-, h⟩ | ⟨-, -, h⟩ | ⟨-, hc, -⟩ |
    ⟨-, -, -, x, r, tgt, -, -, h⟩ | ⟨-, -, -, x, t, tgt, -, -, h⟩ | ⟨-, -, -, u, ⟨x, y, tgt, -, rfl⟩, h⟩
  · rw [h]; trivial
  · rw [h]; trivial
  · simp [sizeCode_dataBytes] at hc
  · rw [h]
    exact ⟨[x, r], rfl⟩
  · rw [h]
    exact ⟨[x, 0x0, t], rfl⟩
  · rw [h]
    exact ⟨[x, 0x0, 0xF, y], rfl⟩

/-- Settles O8: the host slots of either cycle are the frame's words and then 0xF. -/
theorem frameSlotsAreItsWords : Obligations.FrameSlotsAreItsWords := by
  refine ⟨fun a size s t h => ?_, fun a data s t h => ?_⟩
  · have hlogs : LogsFrame (encode (.readFrame a size) ++ [0xF]) s t :=
      finish_next (fun _ _ h => h) (readCycle_logsFrame a size s) h
    obtain ⟨answers, h⟩ := hlogs.words
    exact ⟨_, answers, rfl, h⟩
  · have hlogs : LogsFrame (encode (.writeFrame a data) ++ [0xF]) s t :=
      finish_next (fun _ _ h => h) (writeCycle_logsFrame a data s) h
    obtain ⟨answers, h⟩ := hlogs.words
    exact ⟨_, answers, rfl, h⟩

/-! ### The cycles run to their ends (R71, R72; log 5) -/

/-- Settles O32: the lengths of a frame row are supported, so its cycle runs on the answers given. -/
theorem framesComplete : Obligations.FramesComplete := by
  refine ⟨fun a size bytes x r t y tgt s hr hlen hans hsync => ?_, fun a data x y tgt s hr hans => ?_⟩
  · obtain ⟨hp, hd⟩ := (ready_iff s).1 hr
    have hrun := readCycle_of_readRuns hp hd (hlen ▸ sizeCode_readBytes size) ⟨x, r, y, tgt, hans, hsync, rfl⟩
    rw [exec, execReadFrame, ← hlen, hrun]
    rfl
  · obtain ⟨hp, hd⟩ := (ready_iff s).1 hr
    have hrun := writeCycle_of_writeRuns hp hd (sizeCode_dataBytes data) ⟨x, y, tgt, hans, rfl⟩
    rw [exec, execWriteFrame, hrun]
    rfl

end Sys2Proof.Machine
end

section
/-! The pseudo-operations of R91 and the lines they expand into. A cycle neither reads nor writes what the
caller has been told, so the lines, which record an outcome each, run the cycles of the operation they stand
for. -/

namespace Sys2Proof.Machine

/-! ### The outcomes so far and the poll counter -/

/-- The state with other outcomes and another poll counter. -/
def setOutcomes (rs : List OpOutcome) (polls : Option Nat) (s : State) : State :=
  { s with results := rs, polls := polls }

@[simp] theorem setOutcomes_results (rs : List OpOutcome) (polls : Option Nat) (s : State) :
    (setOutcomes rs polls s).results = rs := rfl

theorem record_setOutcomes (o : OpOutcome) (rs : List OpOutcome) (polls : Option Nat) (s : State) :
    record o (setOutcomes rs polls s) = setOutcomes (rs ++ [o]) none s := rfl

@[simp] theorem endedInError_returned (rs : List OpOutcome) (v : OpValue) (polls : Option Nat) (s : State) :
    endedInError (setOutcomes (rs ++ [.returned v]) polls s) = false := by
  simp [endedInError]

@[simp] theorem endedInError_raised (rs : List OpOutcome) (e : OpError) (polls : Option Nat) (s : State) :
    endedInError (setOutcomes (rs ++ [.raised e]) polls s) = true := by
  simp [endedInError]

/-- The same end on another state. -/
def Ran.mapState {α : Type} (f : State → State) : Ran α → Ran α
  | .ok a s => .ok a (f s)
  | .raised e s => .raised e (f s)
  | .faulted f => .faulted f

section

variable (rs : List OpOutcome) (polls : Option Nat) (s : State)

/-- The two checks read neither. -/
theorem readyChecks_setOutcomes {f : Fault} (h : readyChecks s = .faulted f) :
    readyChecks (setOutcomes rs polls s) = .faulted f := by
  rcases readyChecks_cases s with ⟨hp, hs⟩ | ⟨hp, hd, hs⟩ | ⟨-, -, hs⟩ <;> rw [← h, hs]
  · exact readyChecks_of_notPrepared hp
  · exact readyChecks_of_desynced hp hd
  · simp [hs] at h

/-- A read cycle neither reads nor writes the outcomes or the poll counter. -/
theorem readCycle_setOutcomes (a : Addr) (n : Nat) :
    readCycle a n (setOutcomes rs polls s) = (readCycle a n s).mapState (setOutcomes rs polls) := by
  rcases readyChecks_cases s with ⟨-, h⟩ | ⟨-, -, h⟩ | ⟨hp, hd, h⟩
  · rw [readCycle_of_faulted h, readCycle_of_faulted (readyChecks_setOutcomes rs polls s h)]; rfl
  · rw [readCycle_of_faulted h, readCycle_of_faulted (readyChecks_setOutcomes rs polls s h)]; rfl
  · cases hc : sizeCode n .memoryRead with
    | none =>
      rw [readCycle_of_badLength h hc,
        readCycle_of_badLength (s := setOutcomes rs polls s) (readyChecks_of_ready hp hd) hc]
      rfl
    | some c =>
      rcases readCycle_cases a n c s hp hd hc with
        ⟨x, r, tgt, hdraw, hr, hg, hrun⟩ | ⟨x, r, bytes, t, y, tgt, rfl, hdraw, hr, hrun⟩ <;> rw [hrun]
      · have hans : s.readAnswers a n [x, r] tgt := by rw [State.readAnswers, codeOf_eq hc]; exact hdraw
        have hr0 : r ≠ 0x0 := fun h0 => by simp [(rsyncAccepted_iff r).2 h0] at hr
        exact readCycle_of_badSync (s := setOutcomes rs polls s) hp hd hc hans hr0 hg
      · have hans : s.readAnswers a bytes.length (readFrameTarget x r bytes t y) tgt := by
          rw [State.readAnswers, codeOf_eq hc, readFrameTarget_length]; exact hdraw
        rw [rsyncAccepted_iff] at hr
        exact readCycle_of_readRuns (s := setOutcomes rs polls s) hp hd hc ⟨x, r, y, tgt, hans, hr, rfl⟩

/-- A write cycle neither reads nor writes the outcomes or the poll counter. -/
theorem writeCycle_setOutcomes (a : Addr) (bytes : List Byte) :
    writeCycle a bytes (setOutcomes rs polls s) =
      (writeCycle a bytes s).mapState (setOutcomes rs polls) := by
  rcases readyChecks_cases s with ⟨-, h⟩ | ⟨-, -, h⟩ | ⟨hp, hd, h⟩
  · rw [writeCycle_of_faulted h, writeCycle_of_faulted (readyChecks_setOutcomes rs polls s h)]; rfl
  · rw [writeCycle_of_faulted h, writeCycle_of_faulted (readyChecks_setOutcomes rs polls s h)]; rfl
  · cases hc : sizeCode bytes.length .memoryWrite with
    | none =>
      rw [writeCycle_of_badLength h hc,
        writeCycle_of_badLength (s := setOutcomes rs polls s) (readyChecks_of_ready hp hd) hc]
      rfl
    | some c =>
      rcases writeCycle_cases a bytes c s hp hd hc with
        ⟨x, r, tgt, hans, hr, hrun⟩ | ⟨x, t, tgt, hans, ht, hrun⟩ | ⟨x, y, tgt, hans, hrun⟩ <;>
        rw [hrun] <;> rw [← codeOf_eq hc] at hans
      · exact writeCycle_of_badSync (s := setOutcomes rs polls s) hp hd hc hans hr
      · exact writeCycle_of_badTar (s := setOutcomes rs polls s) hp hd hc hans ht
      · exact writeCycle_of_writeRuns (s := setOutcomes rs polls s) hp hd hc ⟨x, y, tgt, hans, rfl⟩

end

/-! ### What no cycle writes of the caller's -/

/-- The outcomes so far and the parameters stay. -/
structure CallerKept (s t : State) : Prop where
  results : t.results = s.results
  params : t.params = s.params

theorem CallerKept.refl (s : State) : CallerKept s s := ⟨rfl, rfl⟩

theorem CallerKept.trans {s t u : State} (h : CallerKept s t) (k : CallerKept t u) : CallerKept s u :=
  ⟨k.results.trans h.results, k.params.trans h.params⟩

theorem readCycle_callerKept (a : Addr) (n : Nat) (s t : State) (h : CallerKept s t) :
    (readCycle a n t).All (CallerKept s) :=
  readCycle_keeps h (fun _ _ _ _ _ _ _ _ _ => h.trans ⟨rfl, rfl⟩)
    fun _ _ _ _ _ _ _ hu => h.trans ⟨(readRuns_same hu).results, (readRuns_same hu).params⟩

theorem writeCycle_callerKept (a : Addr) (bytes : List Byte) (s t : State) (h : CallerKept s t) :
    (writeCycle a bytes t).All (CallerKept s) :=
  writeCycle_keeps h (fun _ _ _ _ _ _ _ => h.trans ⟨rfl, rfl⟩)
    fun _ _ _ _ hu => h.trans ⟨(writeRuns_same hu).results, (writeRuns_same hu).params⟩

theorem readStatusRegister_callerKept (s : State) : (readStatusRegister s).All (CallerKept s) :=
  readStatusRegister_all (readCycle_callerKept · · s) (writeCycle_callerKept · · s) s (.refl s)

theorem readDeviceIds_callerKept (s : State) : (readDeviceIds s).All (CallerKept s) :=
  readDeviceIds_all (readCycle_callerKept · · s) s (.refl s)

theorem runSequence_callerKept (ps : List CmdPair) (s : State) : (runSequence ps s).All (CallerKept s) :=
  runSequence_all (writeCycle_callerKept · · s) ps s (.refl s)

/-- What every state of an operation's ends has, the state of the end it came to has. -/
theorem Ran.All.of_ok {α : Type} {P : State → Prop} {r : Ran α} {a : α} {t : State} (h : r.All P)
    (hr : r = .ok a t) : P t := by
  subst hr; exact h

theorem Ran.All.of_raised {α : Type} {P : State → Prop} {r : Ran α} {e : OpError} {t : State} (h : r.All P)
    (hr : r = .raised e t) : P t := by
  subst hr; exact h

/-! ### One line, and the lines after it (R90, R211) -/

/-- A line that runs an operation, whatever the outcomes so far, and hands over its result. -/
def RunsAs {α : Type} (i : Instr) (op : State → Ran α) (w : α → OpValue) : Prop :=
  ∀ rs polls s, exec i (setOutcomes rs polls s) = finish w ((op s).mapState (setOutcomes rs polls))

theorem runsAs_readBlock (a : Addr) (n : Nat) :
    RunsAs (.readBlock a n) (readCycle a n) fun r => .bytes r.1 := by
  intro rs polls s
  rw [exec, execReadBlock, readBlock, readCycle_setOutcomes]
  cases readCycle a n s <;> rfl

theorem runsAs_writeBlock (a : Addr) (bytes : List Byte) :
    RunsAs (.writeBlock a bytes) (writeCycle a bytes) fun _ => .unit := by
  intro rs polls s
  rw [exec, execWriteBlock, writeBlock, writeCycle_setOutcomes]

section

variable {α : Type} {i : Instr} {op : State → Ran α} {w : α → OpValue} {s t : State}
  (hi : RunsAs i op w) (is : List Instr) (rs : List OpOutcome) (polls : Option Nat)

include hi

/-- After a line that returns, the next line runs. -/
theorem RunsAs.runToError_ok {a : α} (h : op s = .ok a t) :
    runToError (i :: is) (setOutcomes rs polls s) =
      runToError is (setOutcomes (rs ++ [.returned (w a)]) none t) := by
  simp [runToError, hi rs polls s, h, Ran.mapState, finish, record_setOutcomes]

/-- After a line that raises an error, no other line runs. -/
theorem RunsAs.runToError_raised {e : OpError} (h : op s = .raised e t) :
    runToError (i :: is) (setOutcomes rs polls s) = .next (setOutcomes (rs ++ [.raised e]) none t) := by
  simp [runToError, hi rs polls s, h, Ran.mapState, finish, record_setOutcomes]

end

/-! ### Lines that an operation expands into (R91) -/

/-- The poll counter after some lines: the first to end clears it. -/
def pollsAfter (polls : Option Nat) : List Instr → Option Nat
  | [] => polls
  | _ :: _ => none

@[simp] theorem pollsAfter_none (is : List Instr) : pollsAfter none is = none := by cases is <;> rfl

/-- From `s` the lines come to what the operation `r` comes to, but for the outcomes: those a result stands
for, or some and then the error. -/
structure Expands {α : Type} (is : List Instr) (s : State) (r : Ran α) (outs : α → List OpOutcome) :
    Prop where
  ok : ∀ a t, r = .ok a t → ∀ rs polls, runToError is (setOutcomes rs polls s) =
    .next (setOutcomes (rs ++ outs a) (pollsAfter polls is) t)
  raised : ∀ e t, r = .raised e t → ∀ rs polls, ∃ os, runToError is (setOutcomes rs polls s) =
    .next (setOutcomes (rs ++ os ++ [.raised e]) none t)

/-- No lines, and an operation that returns at once. -/
theorem expands_nil {α : Type} (a : α) (s : State) (outs : α → List OpOutcome) (h : outs a = []) :
    Expands [] s (.ok a s) outs where
  ok := by rintro _ _ ⟨⟩ rs polls; simp [runToError, pollsAfter, h]
  raised := by rintro _ _ ⟨⟩

/-- An operation that goes on after its first part, which is a line, as the other lines go on. -/
theorem Expands.cons {α β : Type} {i : Instr} {op : State → Ran α} {w : α → OpValue} {is : List Instr}
    {s : State} {k : α → State → Ran β} {outs : β → List OpOutcome} (hi : RunsAs i op w)
    {rest : α → β → List OpOutcome} (hk : ∀ a u, op s = .ok a u → Expands is u (k a u) (rest a))
    (houts : ∀ a u b t, op s = .ok a u → k a u = .ok b t → outs b = .returned (w a) :: rest a b) :
    Expands (i :: is) s ((op s).bind k) outs where
  ok b t h rs polls := by
    obtain ⟨a, u, hop, hrest⟩ := Ran.bind_eq_ok h
    rw [hi.runToError_ok is rs polls hop, (hk a u hop).ok b t hrest, houts a u b t hop hrest]
    rw [pollsAfter_none, List.append_assoc]
    rfl
  raised e t h rs polls := by
    cases hop : op s with
    | ok a u =>
      rw [hop] at h
      obtain ⟨os, hos⟩ := (hk a u hop).raised e t h (rs ++ [.returned (w a)]) none
      rw [hi.runToError_ok is rs polls hop, hos]
      exact ⟨.returned (w a) :: os, by simp⟩
    | raised e' u =>
      rw [hop] at h
      obtain ⟨rfl, rfl⟩ := Ran.raised.inj h
      exact ⟨[], by rw [hi.runToError_raised is rs polls hop, List.append_nil]⟩
    | faulted f => rw [hop] at h; cases h

/-- A one-byte read cycle that returns has read one byte. -/
theorem readCycle_one_byte {a : Addr} {s t : State} {r : List Byte × Bool} (h : readCycle a 1 s = .ok r t) :
    r.1 = [firstByte r.1] := by
  rcases readCycle_all a 1 s with ⟨-, hx⟩ | ⟨-, -, hx⟩ | ⟨-, -, hx⟩ | ⟨-, x, v, tgt, -, -, -, -, -, hx⟩ |
    ⟨-, bytes, tar, u, hlen, -, -, -, hx⟩ <;> rw [hx] at h
  · cases h
  · cases h
  · cases h
  · cases h
  · obtain ⟨rfl, -⟩ := Ran.ok.inj h
    obtain ⟨b, rfl⟩ := List.length_eq_one_iff.1 hlen
    rfl

/-- `STATUS`: the command, then the read back (R91, R171). -/
theorem expands_readStatusRegister (s : State) :
    Expands (expandStatus s.params) s (readStatusRegister s)
      fun b => [.returned .unit, .returned (.bytes [b])] := by
  refine .cons (runsAs_writeBlock _ _) (rest := fun _ b => [.returned (.bytes [b])])
    (fun _ u hu => ?_) (fun _ _ _ _ _ _ => rfl)
  rw [((writeCycle_callerKept _ _ s s (.refl s)).of_ok hu).params]
  refine .cons (runsAs_readBlock _ _) (rest := fun _ _ => []) (fun _ v _ => expands_nil _ v _ rfl)
    (fun r v b t hr hb => ?_)
  obtain ⟨rfl, -⟩ := Ran.ok.inj hb
  rw [← readCycle_one_byte hr]

/-- `ID`: the manufacturer's byte, then the chip's (R91, R169). -/
theorem expands_readDeviceIds (s : State) :
    Expands (expandId s.params) s (readDeviceIds s)
      fun ids => [.returned (.bytes [ids.1]), .returned (.bytes [ids.2])] := by
  refine .cons (runsAs_readBlock _ _) (rest := fun _ ids => [.returned (.bytes [ids.2])])
    (fun m u hm => ?_) (fun m u ids t hm hids => ?_)
  · rw [((readCycle_callerKept _ _ s s (.refl s)).of_ok hm).params]
    refine .cons (runsAs_readBlock _ _) (rest := fun _ _ => []) (fun _ v _ => expands_nil _ v _ rfl)
      (fun c v ids t hc hids => ?_)
    obtain ⟨rfl, -⟩ := Ran.ok.inj hids
    rw [← readCycle_one_byte hc]
  · obtain ⟨c, v, -, hids⟩ := Ran.bind_eq_ok hids
    obtain ⟨rfl, -⟩ := Ran.ok.inj hids
    rw [← readCycle_one_byte hm]

/-- `UNLOCKW`: a write cycle for each pair (R91, R170). -/
theorem expands_runSequence (ps : List CmdPair) (s : State) :
    Expands (expandSequence ps) s (runSequence ps s) fun _ => ps.map fun _ => .returned .unit := by
  induction ps generalizing s with
  | nil => exact expands_nil () s _ rfl
  | cons p ps ih => exact .cons (runsAs_writeBlock _ _) (fun _ u _ => ih u) fun _ _ _ _ _ _ => rfl

/-! ### The operations that expand -/

/-- What an operation that answers a next state has come to. -/
theorem finish_next_cases {α : Type} {w : α → OpValue} {r : Ran α} {t : State} (h : finish w r = .next t) :
    (∃ a u, r = .ok a u ∧ t = record (.returned (w a)) u) ∨
    ∃ e u, r = .raised e u ∧ t = record (.raised e) u := by
  cases r with
  | ok a u => exact .inl ⟨a, u, rfl, (Host.Outcome.next.inj h).symm⟩
  | raised e u => exact .inr ⟨e, u, rfl, (Host.Outcome.next.inj h).symm⟩
  | faulted f => cases h

section

variable {s t : State}

/-- The next state of an operation, and the state its lines leave. -/
theorem Expands.of_finish {α : Type} {is : List Instr} {r : Ran α} {outs : α → List OpOutcome}
    {w : α → OpValue} (hx : Expands is s r outs) (hkept : r.All (CallerKept s))
    (h : finish w r = .next t) :
    (∃ a v, v.results = s.results ∧ t = record (.returned (w a)) v ∧
      runToError is s = .next (setOutcomes (s.results ++ outs a) (pollsAfter s.polls is) v)) ∨
    ∃ e v os, v.results = s.results ∧ t = record (.raised e) v ∧
      runToError is s = .next (setOutcomes (s.results ++ os ++ [.raised e]) none v) := by
  rcases finish_next_cases h with ⟨a, v, hrun, ht⟩ | ⟨e, v, hrun, ht⟩
  · exact .inl ⟨a, v, (hkept.of_ok hrun).results, ht, hx.ok a v hrun s.results s.polls⟩
  · obtain ⟨os, hlines⟩ := hx.raised e v hrun s.results s.polls
    exact .inr ⟨e, v, os, (hkept.of_raised hrun).results, ht, hlines⟩

/-- `identify` is the two cycles and then, where both returned, the look-up (R173). -/
theorem identify_next_cases (h : exec .identify s = .next t) :
    (∃ m c v, readDeviceIds s = .ok (m, c) v ∧
      t = record (.returned (.ids m c)) (setDevice (findDevice m c v.params.registry) v)) ∨
    ∃ e v, readDeviceIds s = .raised e v ∧ t = record (.raised e) v := by
  rw [exec, execIdentify, identify] at h
  cases hids : readDeviceIds s with
  | ok ids v =>
    rw [hids] at h
    exact .inl ⟨ids.1, ids.2, v, rfl, (Host.Outcome.next.inj h).symm⟩
  | raised e v =>
    rw [hids] at h
    exact .inr ⟨e, v, rfl, (Host.Outcome.next.inj h).symm⟩
  | faulted f => rw [hids] at h; cases h

/-- With a device, `unlockForWrite` on a ready engine is the device's write sequence (R174). -/
theorem exec_unlockForWrite_of_device {d : DeviceDescriptor} (hd : s.device = some d)
    (h : exec .unlockForWrite s = .next t) :
    finish (fun _ => .unit) (runSequence d.writeSeq s) = .next t := by
  rw [exec, execUnlockForWrite] at h
  rcases readyChecks_cases s with ⟨-, hs⟩ | ⟨-, -, hs⟩ | ⟨-, -, hs⟩
  · rw [unlock_of_faulted hs] at h; cases h
  · rw [unlock_of_faulted hs] at h; cases h
  · rw [unlock, hs, Ran.bind, hd] at h
    exact h

/-! ### One poll of `WAITWR` (R172) -/

theorem pollsExhausted_iff (limit : Option Nat) (n : Nat) :
    pollsExhausted limit n = true ↔ ∃ m, limit = some m ∧ m ≤ n := by
  cases limit <;> simp [pollsExhausted]

/-- A poll is the status read and what follows it. -/
theorem exec_wait_of_status_ok {b : Byte} (h : readStatusRegister s = .ok b t) :
    exec .waitForWriteComplete s = afterPoll (s.polls.getD 0) b t := by
  rw [exec, execWaitForWriteComplete, h]

theorem exec_wait_of_status_raised {e : OpError} (h : readStatusRegister s = .raised e t) :
    exec .waitForWriteComplete s = .next (record (.raised e) t) := by
  rw [exec, execWaitForWriteComplete, h]; rfl

variable {b : Byte} (n : Nat)

theorem afterPoll_clear (hb : b.getLsbD 0 = false) (t : State) :
    afterPoll n b t = .next (record (.returned .unit) t) := if_pos hb

theorem afterPoll_timeout (hb : b.getLsbD 0 = true) (hlimit : ∃ m, t.params.pollLimit = some m ∧ m ≤ n + 1) :
    afterPoll n b t = .next (record (.raised (.pollTimeout t.params.statusAddr b)) t) := by
  have hbusy : statusBusy b ≠ false := Bool.ne_false_iff.2 hb
  exact (if_neg hbusy).trans (if_pos ((pollsExhausted_iff ..).2 hlimit))

theorem afterPoll_again (hb : b.getLsbD 0 = true)
    (hlimit : ¬∃ m, t.params.pollLimit = some m ∧ m ≤ n + 1) :
    afterPoll n b t = .next (setPolls (n + 1) (delay .poll t)) := by
  have hbusy : statusBusy b ≠ false := Bool.ne_false_iff.2 hb
  exact (if_neg hbusy).trans (if_neg fun h => hlimit ((pollsExhausted_iff ..).1 h))

end

/-- A poll that reads a status ends as R172 says of that byte. -/
theorem waitForWriteComplete_of_status {b : Byte} {s v : State} (hrun : readStatusRegister s = .ok b v) :
    ∃ t, exec .waitForWriteComplete s = .next t ∧
      (b.getLsbD 0 = false → t = record (.returned .unit) v) ∧
      (b.getLsbD 0 = true → (∃ m, s.params.pollLimit = some m ∧ m ≤ s.polls.getD 0 + 1) →
        t = record (.raised (.pollTimeout s.params.statusAddr b)) v) ∧
      (b.getLsbD 0 = true → (¬∃ m, s.params.pollLimit = some m ∧ m ≤ s.polls.getD 0 + 1) →
        t = setPolls (s.polls.getD 0 + 1) (delay .poll v)) := by
  have hparams := ((readStatusRegister_callerKept s).of_ok hrun).params
  rw [exec_wait_of_status_ok hrun, ← hparams]
  cases hb : b.getLsbD 0 with
  | false => exact ⟨_, afterPoll_clear _ hb v, fun _ => rfl, nofun, nofun⟩
  | true =>
    by_cases hlimit : ∃ m, v.params.pollLimit = some m ∧ m ≤ s.polls.getD 0 + 1
    · exact ⟨_, afterPoll_timeout _ hb hlimit, nofun, fun _ _ => rfl, fun _ h => absurd hlimit h⟩
    · exact ⟨_, afterPoll_again _ hb hlimit, nofun, fun _ h => absurd h hlimit, fun _ _ => rfl⟩

/-! ### The statement -/

/-- Settles O47: each operation's cycles are those of its lines, and a poll is a status read. -/
theorem pseudoOperationsExpand : Obligations.PseudoOperationsExpand := by
  refine ⟨fun s t h => ?_, fun s t h => ?_, fun d s t hd h => ?_, fun s u h => ?_⟩
  · rcases (expands_readStatusRegister s).of_finish (readStatusRegister_callerKept s) h with
      ⟨b, v, hres, rfl, hlines⟩ | ⟨e, v, os, hres, rfl, hlines⟩
    · exact ⟨_, hlines, rfl, .inl ⟨b, by rw [record_results, hres], rfl⟩⟩
    · exact ⟨_, hlines, rfl, .inr ⟨e, by rw [record_results, hres], by simp⟩⟩
  · have hkept := readDeviceIds_callerKept s
    rcases identify_next_cases h with ⟨m, c, v, hids, rfl⟩ | ⟨e, v, hids, rfl⟩
    · obtain ⟨hres, hparams⟩ := hkept.of_ok hids
      refine ⟨_, (expands_readDeviceIds s).ok _ v hids s.results s.polls, .inl ⟨m, c, ?_, rfl, ?_⟩⟩
      · rw [record_results, setDevice_results, hres]
      · rw [← findDevice_eq_find, ← hparams]; rfl
    · obtain ⟨os, hlines⟩ := (expands_readDeviceIds s).raised e v hids s.results s.polls
      exact ⟨_, hlines, .inr ⟨e, by rw [record_results, (hkept.of_raised hids).results], by simp, rfl⟩⟩
  · rcases (expands_runSequence d.writeSeq s).of_finish (runSequence_callerKept d.writeSeq s)
        (exec_unlockForWrite_of_device hd h) with ⟨_, v, hres, rfl, hlines⟩ | ⟨e, v, os, hres, rfl, hlines⟩
    · exact ⟨_, hlines, rfl, .inl ⟨by rw [record_results, hres], rfl⟩⟩
    · exact ⟨_, hlines, rfl, .inr ⟨e, by rw [record_results, hres], by simp⟩⟩
  · rcases finish_next_cases h with ⟨b, v, hrun, rfl⟩ | ⟨e, v, hrun, rfl⟩
    · have hres := ((readStatusRegister_callerKept s).of_ok hrun).results
      have hread : ∀ c, (record (.returned (.byte b)) v).results = s.results ++ [.returned (.byte c)] →
          b = c := fun c hc => by simpa [hres] using hc
      obtain ⟨t, hexec, hclear, htimeout, hagain⟩ := waitForWriteComplete_of_status hrun
      refine ⟨t, hexec, fun e he => by simp [hres] at he, fun c hc hc0 => ?_, fun c hc hc0 hlimit => ?_,
        fun c hc hc0 hlimit => ?_⟩ <;> obtain rfl := hread c hc
      · rw [hclear hc0, ← hres]; rfl
      · rw [htimeout hc0 hlimit, ← hres]; rfl
      · rw [hagain hc0 fun ⟨m, hm, hle⟩ => absurd (hlimit m hm) (Nat.not_lt.2 hle), ← hres]; rfl
    · have hres := ((readStatusRegister_callerKept s).of_raised hrun).results
      have hread : ∀ c, (record (.raised e) v).results ≠ s.results ++ [.returned (.byte c)] :=
        fun c hc => by simp [hres] at hc
      exact ⟨_, exec_wait_of_status_raised hrun, fun _ _ => rfl, fun c hc => absurd hc (hread c),
        fun c hc => absurd hc (hread c), fun c hc => absurd hc (hread c)⟩

end Sys2Proof.Machine
end

section
/-! The signal layer: its primitives run to their ends with nothing else written (R102 to R105), and the two
lines that only `busInit` drives (R110). -/

namespace Sys2Proof.Machine

/-! ### The primitives as operations (R102 to R105) -/

/-- The directions of R102 and their events, over any state. -/
theorem setLinesOutput_eq (s : State) : setLinesOutput s =
    { s with
      lines := { s.lines with
        lad0 := ⟨.set .output, s.lines.lad0.lvl⟩, lad1 := ⟨.set .output, s.lines.lad1.lvl⟩
        lad2 := ⟨.set .output, s.lines.lad2.lvl⟩, lad3 := ⟨.set .output, s.lines.lad3.lvl⟩ }
      trace := s.trace ++ outputEvents } := by
  apply State.ext <;> simp

/-- The levels and directions of R103 and their events, over any state. -/
theorem setLinesInput_eq (z : Bool) (s : State) : setLinesInput z s =
    { s with
      lines := { s.lines with
        lad0 := ⟨.set .input, if z then .set .low else s.lines.lad0.lvl⟩
        lad1 := ⟨.set .input, if z then .set .low else s.lines.lad1.lvl⟩
        lad2 := ⟨.set .input, if z then .set .low else s.lines.lad2.lvl⟩
        lad3 := ⟨.set .input, if z then .set .low else s.lines.lad3.lvl⟩ }
      trace := s.trace ++ inputEvents z } := by
  apply State.ext <;> simp

theorem exec_setLinesOutput (s : State) :
    exec .setLinesOutput s = .next (record (.returned .unit) (setLinesOutput s)) := rfl

theorem exec_setLinesInput (z : Bool) (s : State) :
    exec (.setLinesInput z) s = .next (record (.returned .unit) (setLinesInput z s)) := rfl

theorem exec_assertFrame (f : Bool) (s : State) :
    exec (.assertFrame f) s = .next (record (.returned .unit) (writeLevel .lframe (frameLevel f) s)) := rfl

theorem exec_setClock (l : Level) (s : State) :
    exec (.setClock l) s = .next (record (.returned .unit) (writeLevel .lclk l s)) := rfl

/-- Settles O9. -/
theorem setLinesOutputEffect : Obligations.SetLinesOutputEffect := fun s => by
  rw [exec_setLinesOutput, setLinesOutput_eq, outputEvents]

/-- Settles O10: the zeroing half is there for `true` and empty for `false`. -/
theorem setLinesInputEffect : Obligations.SetLinesInputEffect := by
  constructor <;> intro s <;> rw [exec_setLinesInput, setLinesInput_eq] <;> rfl

/-- Settles O11: each is one write, LFRAME's at the level that R104 gives `active`. -/
theorem frameAndClockEffect : Obligations.FrameAndClockEffect :=
  ⟨exec_assertFrame true, exec_assertFrame false, exec_setClock⟩

/-! ### Events that are not about RESET or WE -/

/-- No event is about RESET or WE. -/
def SpareResetAndWe (es : List LineEvent) : Prop :=
  ∀ e ∈ es, eventLine e ≠ some .reset ∧ eventLine e ≠ some .we

theorem spareResetAndWe_nil : SpareResetAndWe [] := List.forall_mem_nil _

theorem SpareResetAndWe.append {es fs : List LineEvent} (h : SpareResetAndWe es) (k : SpareResetAndWe fs) :
    SpareResetAndWe (es ++ fs) := List.forall_mem_append.2 ⟨h, k⟩

theorem SpareResetAndWe.flatMap {α : Type} {f : α → List LineEvent} (h : ∀ a, SpareResetAndWe (f a))
    (xs : List α) : SpareResetAndWe (xs.flatMap f) := fun e he =>
  have ⟨a, _, hea⟩ := List.mem_flatMap.1 he
  h a e hea

theorem spareResetAndWe_output : SpareResetAndWe outputEvents := by
  simp [SpareResetAndWe, outputEvents, eventLine]

theorem spareResetAndWe_input (z : Bool) : SpareResetAndWe (inputEvents z) := by
  cases z <;> simp [SpareResetAndWe, inputEvents, eventLine]

theorem spareResetAndWe_targetSlot (v : Nibble) : SpareResetAndWe (targetSlotEvents v) := by
  simp [SpareResetAndWe, targetSlotEvents, eventLine]

theorem spareResetAndWe_slot (e : NibbleEvent) : SpareResetAndWe (slotEvents e) := by
  cases e with
  | host v f => simp [SpareResetAndWe, slotEvents, hostSlotEvents, eventLine]
  | target v => exact spareResetAndWe_targetSlot v

/-- A cycle drives LAD, LFRAME and LCLK only, whatever its slots (R139, R140). -/
theorem spareResetAndWe_cycle (z : Bool) (hosts : List NibbleEvent) (vs : List Nibble) :
    SpareResetAndWe (cycleEvents z hosts vs) :=
  ((spareResetAndWe_output.append (.flatMap spareResetAndWe_slot hosts)).append
    (spareResetAndWe_input z)).append (.flatMap spareResetAndWe_targetSlot vs)

/-! ### RESET and WE left alone (R110) -/

/-- From `s` to `t` nothing has driven RESET or WE. -/
structure LeavesResetAndWe (s t : State) : Prop where
  reset : t.lines.reset = s.lines.reset
  we : t.lines.we = s.lines.we
  events : ∃ es, t.trace = s.trace ++ es ∧ SpareResetAndWe es

theorem LeavesResetAndWe.refl (s : State) : LeavesResetAndWe s s :=
  ⟨rfl, rfl, [], (List.append_nil _).symm, spareResetAndWe_nil⟩

theorem LeavesResetAndWe.trans {s t u : State} (h : LeavesResetAndWe s t) (k : LeavesResetAndWe t u) :
    LeavesResetAndWe s u := by
  obtain ⟨es, hes, hspare⟩ := h.events
  obtain ⟨fs, hfs, kspare⟩ := k.events
  exact ⟨k.reset.trans h.reset, k.we.trans h.we, es ++ fs, by rw [hfs, hes, List.append_assoc],
    hspare.append kspare⟩

/-- A read cycle, aborted or run to its end, adds the events of its slots (R134, R209). -/
theorem readCycle_leavesResetAndWe (a : Addr) (n : Nat) (s : State) :
    (readCycle a n s).All (LeavesResetAndWe s) :=
  readCycle_keeps (.refl s)
    (fun _ _ _ _ _ _ _ _ _ => ⟨rfl, rfl, _, rfl, spareResetAndWe_cycle _ _ _⟩)
    fun _ _ _ _ _ _ _ ⟨_, _, _, _, _, _, hu⟩ => hu ▸ ⟨rfl, rfl, _, rfl, spareResetAndWe_cycle _ _ _⟩

/-- A write cycle, aborted or run to its end, adds the events of its slots (R138, R209). -/
theorem writeCycle_leavesResetAndWe (a : Addr) (bytes : List Byte) (s : State) :
    (writeCycle a bytes s).All (LeavesResetAndWe s) :=
  writeCycle_keeps (.refl s)
    (fun _ _ _ _ _ _ _ => ⟨rfl, rfl, _, rfl, spareResetAndWe_cycle _ _ _⟩)
    fun _ _ _ _ ⟨_, _, _, _, hu⟩ => hu ▸ ⟨rfl, rfl, _, rfl, spareResetAndWe_cycle _ _ _⟩

/-- A poll's wait is about no line (R172). -/
theorem delay_leavesResetAndWe (d : DelayName) (s : State) : LeavesResetAndWe s (delay d s) :=
  ⟨rfl, rfl, _, delay_trace s d, by simp [SpareResetAndWe, eventLine]⟩

theorem setLinesOutput_leavesResetAndWe (s : State) : LeavesResetAndWe s (setLinesOutput s) :=
  ⟨rfl, rfl, _, setLinesOutput_trace s, spareResetAndWe_output⟩

theorem setLinesInput_leavesResetAndWe (z : Bool) (s : State) : LeavesResetAndWe s (setLinesInput z s) :=
  ⟨by simp, by simp, _, setLinesInput_trace s z, spareResetAndWe_input z⟩

theorem assertFrame_leavesResetAndWe (f : Bool) (s : State) : LeavesResetAndWe s (assertFrame f s) :=
  ⟨rfl, rfl, _, assertFrame_trace s f, by simp [SpareResetAndWe, eventLine]⟩

theorem setClock_leavesResetAndWe (l : Level) (s : State) : LeavesResetAndWe s (setClock l s) :=
  ⟨rfl, rfl, _, setClock_trace s l, by simp [SpareResetAndWe, eventLine]⟩

theorem writeNibble_leavesResetAndWe (v : Nibble) (f : Bool) (s : State) :
    LeavesResetAndWe s (writeNibble v f s) :=
  ⟨rfl, rfl, _, writeNibble_trace s v f, spareResetAndWe_slot _⟩

theorem readNibble_leavesResetAndWe (s : State) : LeavesResetAndWe s (readNibble s) :=
  ⟨rfl, rfl, _, readNibble_trace s, spareResetAndWe_slot _⟩

/-- Every part of an operation but `busInit` leaves RESET and WE alone. -/
theorem keptBy_leavesResetAndWe {i : Instr} (hi : i ≠ .busInit) (s : State) :
    KeptBy i (LeavesResetAndWe s) where
  read _ a n u h := (readCycle_leavesResetAndWe a n u).imp fun _ => h.trans
  write _ a bs u h := (writeCycle_leavesResetAndWe a bs u).imp fun _ => h.trans
  device _ _ _ _ h := ⟨h.reset, h.we, h.events⟩
  poll _ _ u h := ⟨h.reset, h.we, (h.trans (delay_leavesResetAndWe .poll u)).events⟩
  record _ _ h := ⟨h.reset, h.we, h.events⟩
  setLinesOutput _ u h := h.trans (setLinesOutput_leavesResetAndWe u)
  setLinesInput z _ u h := h.trans (setLinesInput_leavesResetAndWe z u)
  assertFrame f _ u h := h.trans (assertFrame_leavesResetAndWe f u)
  setClock l _ u h := h.trans (setClock_leavesResetAndWe l u)
  busInit hb := absurd hb hi
  writeNibble v f _ u h := h.trans (writeNibble_leavesResetAndWe v f u)
  readNibble _ u h := h.trans (readNibble_leavesResetAndWe u)

/-- Settles O14: what each part of an operation leaves alone, the operation does. -/
theorem onlyBusInitDrivesResetAndWe : Obligations.OnlyBusInitDrivesResetAndWe := by
  intro i s t hi h
  obtain ⟨hreset, hwe, hevents⟩ := exec_keeps (keptBy_leavesResetAndWe hi s) (.refl s) h
  exact ⟨hreset, hwe, hevents⟩

end Sys2Proof.Machine
end

section
/-! The nibble transport: one host slot and one target slot as operations (R115, R118), and what the pins show
at the clock edges of a host slot (R116, R117). -/

namespace Sys2Proof.Machine

/-! ### The slots as operations (R115, R118) -/

/-- LFRAME is active Low (R104). -/
theorem frameLevel_eq (f : Bool) : frameLevel f = if f then .low else .high := by
  cases f <;> rfl

/-- The levels, the events and the entry of a host slot (R115), over any state. -/
theorem writeNibble_eq (v : Nibble) (f : Bool) (s : State) : writeNibble v f s =
    { s with
      lines := hostSlotLines v f s.lines
      trace := s.trace ++ hostSlotEvents v f
      nibbles := s.nibbles ++ [.host v f] } := by
  apply State.ext <;> simp [slotEvents]

/-- The answer, the events and the entry of a target slot (R118), over any state and any answer. -/
theorem readNibble_eq {v : Nibble} {tgt : Target} {s : State}
    (h : s.target.draw s.params s.nibbles = (v, tgt)) : readNibble s =
    { s with
      lines := targetSlotLines s.lines
      sample := v
      trace := s.trace ++ targetSlotEvents v
      nibbles := s.nibbles ++ [.target v]
      target := tgt } := by
  apply State.ext <;> simp [h]

theorem exec_writeNibble (v : Nibble) (f : Bool) (s : State) :
    exec (.writeNibble v f) s = .next (record (.returned .unit) (writeNibble v f s)) := rfl

theorem exec_readNibble (s : State) :
    exec .readNibble s = .next (record (.returned (.nibble (readNibble s).sample)) (readNibble s)) := rfl

/-- Settles O15: the slot's levels and events, with LAD's and LFRAME's written out from the bits. -/
theorem writeNibbleEffect : Obligations.WriteNibbleEffect := fun v f s => by
  rw [exec_writeNibble, writeNibble_eq, hostSlotLines, hostSlotEvents, frameLevel_eq]
  simp only [nibbleLevel_eq]

/-- Settles O16: the slot's events, with the sampled levels written out from the answer's bits. -/
theorem readNibbleEffect : Obligations.ReadNibbleEffect := fun v tgt s h => by
  rw [exec_readNibble, readNibble_eq h, targetSlotLines, targetSlotEvents]
  simp only [nibbleLevel_eq]

/-! ### The pins at the clock edges of a host slot (R116, R117) -/

/-- What a host slot does between its two clock edges: data, frame level and the first hold (R115). -/
def hostSlotData (v : Nibble) (f : Bool) : List LineEvent :=
  [.lvl .lad0 (nibbleLevel v 0), .lvl .lad1 (nibbleLevel v 1),
    .lvl .lad2 (nibbleLevel v 2), .lvl .lad3 (nibbleLevel v 3),
    .lvl .lframe (frameLevel f), .wait .wSettle]

/-- The clock rises before the data and falls after it (R116). -/
theorem hostSlotEvents_eq_edges (v : Nibble) (f : Bool) : hostSlotEvents v f =
    [.lvl .lclk .high] ++ hostSlotData v f ++ [.lvl .lclk .low] ++ [.wait .wSettle] := rfl

theorem hostSlotData_ne_lclk (v : Nibble) (f : Bool) :
    ∀ e ∈ hostSlotData v f, eventLine e ≠ some .lclk := by
  simp [hostSlotData, eventLine]

/-- A wait drives nothing, so a host slot's lines are settled at its falling edge. -/
theorem replay_to_fallingEdge (v : Nibble) (f : Bool) (ls : Lines) :
    replay ls ([.lvl .lclk .high] ++ hostSlotData v f ++ [.lvl .lclk .low]) = hostSlotLines v f ls := by
  rw [← replay_hostSlot, hostSlotEvents_eq_edges, replay_append _ _ [.wait .wSettle]]
  rfl

/-- A host slot leaves its own nibble and frame level on the pins (R115). -/
theorem showsSlot_hostSlotLines (v : Nibble) (f : Bool) (ls : Lines) :
    showsSlot v f (hostSlotLines v f ls) := by
  simp [showsSlot, hostSlotLines, nibbleLevel_eq, frameLevel_eq]

/-- A clock edge moves neither LAD nor LFRAME, so the pins show what they showed. -/
theorem showsSlot_clockEdge {v : Nibble} {f : Bool} {ls : Lines} (l : Level) (h : showsSlot v f ls) :
    showsSlot v f (replay ls [.lvl .lclk l]) := h

/-- Settles O17: the first slot's levels outlast the second's rising edge, because the second drives its
own only after that edge. -/
theorem pinsAtTheClockEdges : Obligations.PinsAtTheClockEdges := by
  intro v w f g s t u ht hu
  obtain rfl := Host.Outcome.next.inj ht
  obtain rfl := Host.Outcome.next.inj hu
  refine ⟨hostSlotData w g, [.wait .wSettle], ?trace, ?edges, ?rising, ?falling⟩
  case trace =>
    simp [slotEvents, hostSlotEvents_eq_edges]
  case edges =>
    exact List.forall_mem_append.2 ⟨hostSlotData_ne_lclk w g, by simp [eventLine]⟩
  case rising =>
    exact showsSlot_clockEdge .high (showsSlot_hostSlotLines v f s.lines)
  case falling =>
    rw [replay_to_fallingEdge]
    exact showsSlot_hostSlotLines w g _

end Sys2Proof.Machine
end

section
/-! The bus cycles as operations: the size codes and the lengths without one (R126, R127), the outcome and the
whole next state that the target's answers give (R130 to R138, R209), and how many clocks each end of a cycle
has taken (R142, R245). -/

namespace Sys2Proof.Machine

/-! ### Size codes (R126, R127) -/

theorem exec_sizeCode_of_some {n : Nat} {k : BusCycleKind} {c : Nibble} (h : sizeCode n k = some c)
    (s : State) : exec (.sizeCode n k) s = .next (record (.returned (.nibble c)) s) := by
  rw [exec, execSizeCode, raiseSizeCode, h]; rfl

theorem exec_sizeCode_of_none {n : Nat} {k : BusCycleKind} (h : sizeCode n k = none) (s : State) :
    exec (.sizeCode n k) s = .next (record (.raised (.badBlockLength k n)) s) := by
  rw [exec, execSizeCode, raiseSizeCode, h]; rfl

theorem sizeCode_read_eq_none {n : Nat} (hn : n ∉ [1, 2, 4, 16, 128]) : sizeCode n .memoryRead = none := by
  rw [readLength_iff] at hn
  exact Option.eq_none_iff_forall_ne_some.2 fun c hc => hn ⟨c, hc⟩

theorem sizeCode_write_eq_none {n : Nat} (hn : n ∉ [1, 2, 4]) : sizeCode n .memoryWrite = none := by
  rw [writeLength_iff] at hn
  exact Option.eq_none_iff_forall_ne_some.2 fun c hc => hn ⟨c, hc⟩

/-- Settles O18. -/
theorem sizeCodeTable : Obligations.SizeCodeTable := fun s =>
  ⟨fun _ => exec_sizeCode_of_some rfl s, fun _ => exec_sizeCode_of_some rfl s,
    fun _ => exec_sizeCode_of_some rfl s, exec_sizeCode_of_some rfl s, exec_sizeCode_of_some rfl s,
    fun _ hn => exec_sizeCode_of_none (sizeCode_read_eq_none hn) s,
    fun _ hn => exec_sizeCode_of_none (sizeCode_write_eq_none hn) s⟩

/-! ### A cycle's end is its operation's end (R211) -/

section

variable {a : Addr} {s t : State} {e : OpError}

theorem exec_readCycle_of_ok {n : Nat} {bytes : List Byte} {w : Bool}
    (h : readCycle a n s = .ok (bytes, w) t) :
    exec (.readCycle a n) s = .next (record (.returned (.cycle bytes w)) t) := by
  rw [exec, execReadCycle, h]; rfl

theorem exec_writeCycle_of_ok {bytes : List Byte} (h : writeCycle a bytes s = .ok () t) :
    exec (.writeCycle a bytes) s = .next (record (.returned .unit) t) := by
  rw [exec, execWriteCycle, h]; rfl

/-- An error of a read cycle ends the block read made of it too. -/
theorem exec_of_readCycle_raised {n : Nat} (h : readCycle a n s = .raised e t) :
    exec (.readCycle a n) s = .next (record (.raised e) t) ∧
    exec (.readBlock a n) s = .next (record (.raised e) t) := by
  rw [exec, exec, execReadCycle, execReadBlock, readBlock, h]
  exact ⟨rfl, rfl⟩

/-- An error of a write cycle ends the block write made of it too. -/
theorem exec_of_writeCycle_raised {bytes : List Byte} (h : writeCycle a bytes s = .raised e t) :
    exec (.writeCycle a bytes) s = .next (record (.raised e) t) ∧
    exec (.writeBlock a bytes) s = .next (record (.raised e) t) := by
  rw [exec, exec, execWriteCycle, execWriteBlock, writeBlock, h]
  exact ⟨rfl, rfl⟩

theorem exec_readFrame_of_raised {b : FrameAddr} {size : ReadLength}
    (h : readCycle (wideAddr b) (readBytes size) s = .raised e t) :
    exec (.readFrame b size) s = .next (record (.raised e) t) := by
  rw [exec, execReadFrame, h]; rfl

theorem exec_writeFrame_of_raised {b : FrameAddr} {data : WriteData}
    (h : writeCycle (wideAddr b) (dataBytes data) s = .raised e t) :
    exec (.writeFrame b data) s = .next (record (.raised e) t) := by
  rw [exec, execWriteFrame, h]; rfl

end

/-- Settles O19: the length is checked after readiness and before anything else (R128). -/
theorem badBlockLengthTouchesNothing : Obligations.BadBlockLengthTouchesNothing := by
  refine ⟨fun a n s hr hn => ?_, fun a bytes s hr hn => ?_⟩ <;> obtain ⟨hp, hd⟩ := (ready_iff s).1 hr
  · exact exec_of_readCycle_raised
      (readCycle_of_badLength (readyChecks_of_ready hp hd) (sizeCode_read_eq_none hn) a)
  · exact exec_of_writeCycle_raised
      (writeCycle_of_badLength (readyChecks_of_ready hp hd) (sizeCode_write_eq_none hn) a)

/-! ### The read cycle's ends (R130 to R134, R209) -/

/-- Settles O21. -/
theorem readCycleCompletes : Obligations.ReadCycleCompletes := by
  intro a bytes x r t y tgt s hr hlen hans hsync
  obtain ⟨hp, hd⟩ := (ready_iff s).1 hr
  obtain ⟨c, hc⟩ := sizeCode_read hlen
  exact exec_readCycle_of_ok (readCycle_of_readRuns hp hd hc ⟨x, r, y, tgt, hans, hsync, rfl⟩)

/-- Settles O22. -/
theorem readCycleSyncErrorEndsAtOnce : Obligations.ReadCycleSyncErrorEndsAtOnce := by
  refine ⟨fun a n x r tgt s hr hn hans hbad hdiag => ?_, fun a size x r tgt s hr hans hbad hdiag => ?_⟩ <;>
    obtain ⟨hp, hd⟩ := (ready_iff s).1 hr
  · obtain ⟨c, hc⟩ := sizeCode_read hn
    exact exec_of_readCycle_raised (readCycle_of_badSync hp hd hc hans hbad hdiag)
  · exact exec_readFrame_of_raised
      (readCycle_of_badSync hp hd (sizeCode_readBytes size) hans hbad hdiag)

/-- Settles O23: of the ends a read cycle has, a ready engine, a legal length and diagnostic mode leave the
one that returns. -/
theorem diagnosticReadsAlwaysReturn : Obligations.DiagnosticReadsAlwaysReturn := by
  intro a n s hr hdiag hn
  obtain ⟨hp, hd⟩ := (ready_iff s).1 hr
  obtain ⟨c, hc⟩ := sizeCode_read hn
  rcases readCycle_all a n s with ⟨hp', -⟩ | ⟨-, hd', -⟩ | ⟨-, hc', -⟩ | ⟨-, x, r, tgt, -, -, hdiag', -⟩ |
    ⟨-, bytes, t, u, hlen, -, -, hruns, hrun⟩
  · simp [hp] at hp'
  · simp [hd] at hd'
  · simp [hc] at hc'
  · simp [hdiag] at hdiag'
  · exact ⟨bytes, _, u, exec_readCycle_of_ok hrun, hlen, (readRuns_same hruns).desync.trans hd⟩

/-! ### The write cycle's ends (R135 to R138, R209) -/

/-- Settles O24. -/
theorem writeCycleCompletes : Obligations.WriteCycleCompletes := by
  intro a bytes x y tgt s hr hlen hans
  obtain ⟨hp, hd⟩ := (ready_iff s).1 hr
  obtain ⟨c, hc⟩ := sizeCode_write hlen
  exact exec_writeCycle_of_ok (writeCycle_of_writeRuns hp hd hc ⟨x, y, tgt, hans, rfl⟩)

/-- Settles O25. -/
theorem writeCycleSyncErrorsEndAtOnce : Obligations.WriteCycleSyncErrorsEndAtOnce := by
  refine ⟨fun a bytes vs check v tgt s hr hlen hans hends => ?_,
    fun a data vs check v tgt s hr hans hends => ?_⟩ <;> obtain ⟨hp, hd⟩ := (ready_iff s).1 hr
  · obtain ⟨c, hc⟩ := sizeCode_write hlen
    exact exec_of_writeCycle_raised (writeCycle_of_writeEndsAt hp hd hc hans hends)
  · exact exec_writeFrame_of_raised
      (writeCycle_of_writeEndsAt hp hd (sizeCode_dataBytes data) hans hends)

/-! ### Clocks and settle delays (R142, R245) -/

/-- From `s` to `t` so many host slots and target slots were clocked, each with its two settle delays. -/
structure Clocked (hosts targets : Nat) (s t : State) : Prop where
  hostSlots : hostClocks t.nibbles = hostClocks s.nibbles + hosts
  targetSlots : targetClocks t.nibbles = targetClocks s.nibbles + targets
  hostWaits : countWaits .wSettle t.trace = countWaits .wSettle s.trace + 2 * hosts
  targetWaits : countWaits .rSettle t.trace = countWaits .rSettle s.trace + 2 * targets

/-- A cycle's events and log entries are counted by its slots. -/
theorem Traced.clocked {ls ls' : Lines} {es : List LineEvent} {hosts targets : List Nibble} {s t : State}
    (h : Traced ls es (hostEntries hosts ++ targets.map .target) ls') (htrace : t.trace = s.trace ++ es)
    (hnibbles : t.nibbles = s.nibbles ++ (hostEntries hosts ++ targets.map .target)) :
    Clocked hosts.length targets.length s t where
  hostSlots := by simp [hnibbles]
  targetSlots := by simp [hnibbles]
  hostWaits := by simp [htrace, h.hostWaits]
  targetWaits := by simp [htrace, h.targetWaits]

/-- The counts are of the two logs alone: what leaves these leaves the counts. -/
theorem Clocked.of_logs_eq {hosts targets : Nat} {s t u : State} (h : Clocked hosts targets s t)
    (hnibbles : u.nibbles = t.nibbles) (htrace : u.trace = t.trace) : Clocked hosts targets s u := by
  obtain ⟨hhosts, htargets, hhostWaits, htargetWaits⟩ := h
  exact ⟨hnibbles ▸ hhosts, hnibbles ▸ htargets, htrace ▸ hhostWaits, htrace ▸ htargetWaits⟩

theorem writeFrameHost_length (a : Addr) (c : Nibble) (bytes : List Byte) :
    (writeFrameHost a c bytes).length = 11 + 2 * bytes.length := by
  simp [writeFrameHost, putHeader, putFrameAddr]; omega

theorem readDone_clocked (a : Addr) (bytes : List Byte) (x r t y : Nibble) (tgt : Target) (s : State) :
    Clocked 11 (4 + 2 * bytes.length) s (readDone a bytes x r t y tgt s) := by
  rw [← readFrameTarget_length x r bytes t y]
  exact (traced_readCycle s.lines a _ (readFrameTarget x r bytes t y)).clocked rfl (List.append_assoc ..)

theorem readAborted_clocked (a : Addr) (n : Nat) (x r : Nibble) (tgt : Target) (s : State) :
    Clocked 11 2 s (readAborted a n x r tgt s) :=
  (traced_readCycle s.lines a _ [x, r]).clocked rfl (List.append_assoc ..)

theorem writeSent_clocked (a : Addr) (bytes : List Byte) (vs : List Nibble) (tgt : Target) (s : State) :
    Clocked (11 + 2 * bytes.length) vs.length s (writeSent a bytes vs tgt s) := by
  rw [← writeFrameHost_length a (codeOf bytes.length .memoryWrite) bytes]
  exact (traced_writeCycle s.params s.lines a _ bytes vs).clocked rfl (List.append_assoc ..)

/-- A read cycle that returns has clocked its whole frame, one that ends at RSYNC the two target slots up to
there (R71, R142). -/
theorem readCycle_clocked (a : Addr) (n : Nat) (s : State) :
    (∀ r t, readCycle a n s = .ok r t → Clocked 11 (4 + 2 * n) s t) ∧
    (∀ check k b v t, readCycle a n s = .raised (.syncError check k b v) t → Clocked 11 2 s t) := by
  rcases readCycle_all a n s with ⟨-, h⟩ | ⟨-, -, h⟩ | ⟨-, -, h⟩ | ⟨-, x, r, tgt, -, -, -, -, -, h⟩ |
    ⟨-, bytes, tar, u, rfl, -, -, ⟨x, r, y, tgt, -, -, rfl⟩, h⟩ <;> rw [h]
  · exact ⟨fun _ _ ht => (nomatch ht), fun _ _ _ _ _ ht => nomatch ht⟩
  · exact ⟨fun _ _ ht => (nomatch ht), fun _ _ _ _ _ ht => nomatch ht⟩
  · exact ⟨fun _ _ ht => (nomatch ht), fun _ _ _ _ _ ht => nomatch ht⟩
  · refine ⟨fun _ _ ht => (nomatch ht), fun _ _ _ _ t ht => ?_⟩
    obtain ⟨-, rfl⟩ := Ran.raised.inj ht
    exact readAborted_clocked ..
  · refine ⟨fun _ t ht => ?_, fun _ _ _ _ _ ht => nomatch ht⟩
    obtain ⟨-, rfl⟩ := Ran.ok.inj ht
    exact readDone_clocked ..

/-- A write cycle that returns has clocked its whole frame, one that ends in an error the target slots up to
the one checked: RSYNC is the second, the trailing turnaround the third (R72, R142). -/
theorem writeCycle_clocked (a : Addr) (bytes : List Byte) (s : State) :
    (∀ t, writeCycle a bytes s = .ok () t → Clocked (11 + 2 * bytes.length) 4 s t) ∧
    (∀ check k b v t, writeCycle a bytes s = .raised (.syncError check k b v) t →
      Clocked (11 + 2 * bytes.length) (if check = .rsync then 2 else 3) s t) := by
  rcases writeCycle_all a bytes s with ⟨-, h⟩ | ⟨-, -, h⟩ | ⟨-, -, h⟩ | ⟨-, -, -, x, r, tgt, -, -, h⟩ |
    ⟨-, -, -, x, tar, tgt, -, -, h⟩ | ⟨-, -, -, u, ⟨x, y, tgt, -, rfl⟩, h⟩ <;> rw [h]
  · exact ⟨fun _ ht => (nomatch ht), fun _ _ _ _ _ ht => nomatch ht⟩
  · exact ⟨fun _ ht => (nomatch ht), fun _ _ _ _ _ ht => nomatch ht⟩
  · exact ⟨fun _ ht => (nomatch ht), fun _ _ _ _ _ ht => nomatch ht⟩
  · refine ⟨fun _ ht => (nomatch ht), fun _ _ _ _ t ht => ?_⟩
    obtain ⟨he, rfl⟩ := Ran.raised.inj ht
    obtain ⟨rfl, -⟩ := OpError.syncError.inj he
    exact (writeSent_clocked a bytes [x, r] tgt s).of_logs_eq rfl rfl
  · refine ⟨fun _ ht => (nomatch ht), fun _ _ _ _ t ht => ?_⟩
    obtain ⟨he, rfl⟩ := Ran.raised.inj ht
    obtain ⟨rfl, -⟩ := OpError.syncError.inj he
    exact (writeSent_clocked a bytes [x, 0x0, tar] tgt s).of_logs_eq rfl rfl
  · refine ⟨fun t ht => ?_, fun _ _ _ _ _ ht => nomatch ht⟩
    obtain ⟨-, rfl⟩ := Ran.ok.inj ht
    exact (writeSent_clocked a bytes [x, 0x0, 0xF, y] tgt s).of_logs_eq rfl rfl

/-! ### The outcome tells how an operation ended -/

section

variable {α : Type} {w : α → OpValue} {r : Ran α} {t : State} {rs : List OpOutcome}

theorem ok_of_finish_returned {v : OpValue} (h : finish w r = .next t)
    (hres : t.results = rs ++ [.returned v]) : ∃ a u, r = .ok a u ∧ t = record (.returned (w a)) u := by
  rcases finish_next_cases h with hok | ⟨e, u, -, rfl⟩
  · exact hok
  · simpa using List.append_inj_right' hres rfl

theorem raised_of_finish_raised {e : OpError} (h : finish w r = .next t)
    (hres : t.results = rs ++ [.raised e]) : ∃ u, r = .raised e u ∧ t = record (.raised e) u := by
  rcases finish_next_cases h with ⟨a, u, -, rfl⟩ | ⟨e', u, hrun, rfl⟩
  · simpa using List.append_inj_right' hres rfl
  · obtain rfl : e' = e := by simpa using List.append_inj_right' hres rfl
    exact ⟨u, hrun, rfl⟩

end

/-- Settles O26: the outcome tells which end the cycle had, and each end has its clocks. -/
theorem cycleClockCounts : Obligations.CycleClockCounts := by
  refine ⟨fun a n s t b w h hres => ?_, fun a n s t c k e v h hres => ?_, fun a bytes s t h hres => ?_,
    fun a bytes s t c k e v h hres => ?_⟩
  · obtain ⟨r, u, hrun, rfl⟩ := ok_of_finish_returned h hres
    obtain ⟨hhosts, htargets, hhostWaits, htargetWaits⟩ := (readCycle_clocked a n s).1 r u hrun
    exact ⟨hhosts, by rw [record_nibbles]; omega, hhostWaits, by rw [record_trace]; omega⟩
  · obtain ⟨u, hrun, rfl⟩ := raised_of_finish_raised h hres
    obtain ⟨hhosts, htargets, hhostWaits, htargetWaits⟩ := (readCycle_clocked a n s).2 c k e v u hrun
    exact ⟨hhosts, htargets, hhostWaits, htargetWaits⟩
  · obtain ⟨_, u, hrun, rfl⟩ := ok_of_finish_returned h hres
    obtain ⟨hhosts, htargets, hhostWaits, htargetWaits⟩ := (writeCycle_clocked a bytes s).1 u hrun
    exact ⟨by rw [record_nibbles]; omega, htargets, by rw [record_trace]; omega, htargetWaits⟩
  · obtain ⟨u, hrun, rfl⟩ := raised_of_finish_raised h hres
    obtain ⟨hhosts, htargets, hhostWaits, htargetWaits⟩ := (writeCycle_clocked a bytes s).2 c k e v u hrun
    refine ⟨by rw [record_nibbles]; omega, htargets, by rw [record_trace]; omega, ?_⟩
    cases c <;> exact htargetWaits

end Sys2Proof.Machine
end

section
/-! What every bus operation does to the lines, over all the cycles it issues: it leaves the bus released
(R134, R138, R209) and keeps the directional handshake (R141, R239). -/

namespace Sys2Proof.Machine

/-- A bus operation is made of cycles, the writes to the device and the poll counter, and its outcome: no
primitive of the signal layer or the transport is a part of it (R206). -/
theorem keptBy_of_busOperation {i : Instr} {P : State → Prop} (hi : busOperation i = true)
    (hread : ∀ a n s, P s → (readCycle a n s).All P) (hwrite : ∀ a bs s, P s → (writeCycle a bs s).All P)
    (hdevice : ∀ s d, P s → P (setDevice d s)) (hpoll : ∀ n s, P s → P (setPolls n (delay .poll s)))
    (hrecord : ∀ o s, P s → P (record o s)) : KeptBy i P where
  read _ := hread
  write _ := hwrite
  device _ s d _ := hdevice s d
  poll _ := hpoll
  record := hrecord
  setLinesOutput h := by simp [h, busOperation] at hi
  setLinesInput _ h := by simp [h, busOperation] at hi
  assertFrame _ h := by simp [h, busOperation] at hi
  setClock _ h := by simp [h, busOperation] at hi
  busInit h := by simp [h, busOperation] at hi
  writeNibble _ _ h := by simp [h, busOperation] at hi
  readNibble h := by simp [h, busOperation] at hi

/-! ### The bus is released (R134, R138, R209) -/

theorem busReleased_linesAfterCycle (l : Level) (ls : Lines) : busReleased (linesAfterCycle l ls) :=
  ⟨rfl, rfl, rfl, rfl, rfl, rfl⟩

/-- From `s` to `t` nothing was clocked, or the bus is released. -/
def ReleasedAfter (s t : State) : Prop := t.nibbles = s.nibbles ∨ busReleased t.lines

/-- Both ends of a read cycle that clocked a slot release the bus. -/
theorem readCycle_released {s u : State} (h : ReleasedAfter s u) (a : Addr) (n : Nat) :
    (readCycle a n u).All (ReleasedAfter s) :=
  readCycle_keeps h (fun _ _ _ _ _ _ _ _ _ => .inr (busReleased_linesAfterCycle ..))
    fun _ _ _ _ _ _ _ ⟨_, _, _, _, _, _, hv⟩ => hv ▸ .inr (busReleased_linesAfterCycle ..)

/-- All ends of a write cycle that clocked a slot release the bus. -/
theorem writeCycle_released {s u : State} (h : ReleasedAfter s u) (a : Addr) (bytes : List Byte) :
    (writeCycle a bytes u).All (ReleasedAfter s) :=
  writeCycle_keeps h (fun _ _ _ _ _ _ _ => .inr (busReleased_linesAfterCycle ..))
    fun _ _ _ _ ⟨_, _, _, _, hv⟩ => hv ▸ .inr (busReleased_linesAfterCycle ..)

/-- Settles O27: each cycle that clocks a slot releases the bus, and nothing else touches the lines. -/
theorem busOperationsReleaseTheBus : Obligations.BusOperationsReleaseTheBus := by
  intro i s t hi h hclocked
  have hkept : KeptBy i (ReleasedAfter s) := keptBy_of_busOperation hi
    (fun a n _ hu => readCycle_released hu a n) (fun a bs _ hu => writeCycle_released hu a bs)
    (fun _ _ hu => hu) (fun _ _ hu => hu) (fun _ _ hu => hu)
  exact (exec_keeps hkept (.inl rfl) h).resolve_left hclocked

/-! ### The directional handshake (R141, R239) -/

/-- A frame's events keep the handshake, whatever the lines were before it: its host slots end with the
turnaround, and its target slots come after the switch to input (R139, R140). -/
theorem handshakeKept_frame (ls : Lines) (z : Bool) {hosts : List Nibble} (hne : hosts ≠ [])
    (vs : List Nibble) :
    handshakeKept ls (cycleEvents z (hostEntries (hosts ++ [Config.tarHost])) vs) = true := by
  rw [hostEntries_concat hne]
  exact handshakeKept_cycleEvents ls z (allHost_hostEntries _) vs

/-- From `s` to `t` the trace went on with events that keep the handshake and tell the lines. -/
def HandshakeFrom (s t : State) : Prop :=
  ∃ es, t.trace = s.trace ++ es ∧ t.lines = replay s.lines es ∧ handshakeKept s.lines es = true

theorem HandshakeFrom.refl (s : State) : HandshakeFrom s s := ⟨[], (List.append_nil _).symm, rfl, rfl⟩

theorem HandshakeFrom.trans {s t u : State} (h : HandshakeFrom s t) (k : HandshakeFrom t u) :
    HandshakeFrom s u := by
  obtain ⟨es, htrace, hlines, hkept⟩ := h
  obtain ⟨fs, ktrace, klines, kkept⟩ := k
  rw [hlines] at klines kkept
  exact ⟨es ++ fs, by rw [ktrace, htrace, List.append_assoc], by rw [klines, replay_append],
    by rw [handshakeKept_append, hkept, kkept]; rfl⟩

/-- A read cycle that clocked a slot, aborted or run to its end, adds the events of its frame. -/
theorem readCycle_handshake (a : Addr) (n : Nat) (s : State) : (readCycle a n s).All (HandshakeFrom s) :=
  readCycle_keeps (.refl s)
    (fun _ _ _ _ _ _ _ _ _ => ⟨_, rfl, (traced_readCycle ..).lines,
      handshakeKept_frame _ _ (by simp [putHeader]) _⟩)
    fun _ _ _ _ _ _ _ ⟨_, _, _, _, _, _, hu⟩ => hu ▸ ⟨_, rfl, (traced_readCycle ..).lines,
      handshakeKept_frame _ _ (by simp [putHeader]) _⟩

/-- A write cycle that clocked a slot, aborted or run to its end, adds the events of its frame. -/
theorem writeCycle_handshake (a : Addr) (bytes : List Byte) (s : State) :
    (writeCycle a bytes s).All (HandshakeFrom s) :=
  writeCycle_keeps (.refl s)
    (fun _ _ _ _ _ _ _ => ⟨_, rfl, (traced_writeCycle ..).lines,
      handshakeKept_frame _ _ (by simp [putHeader]) _⟩)
    fun _ _ _ _ ⟨_, _, _, _, hu⟩ => hu ▸ ⟨_, rfl, (traced_writeCycle ..).lines,
      handshakeKept_frame _ _ (by simp [putHeader]) _⟩

/-- A wait drives and samples nothing. -/
theorem delay_handshake (d : DelayName) (s : State) : HandshakeFrom s (delay d s) :=
  ⟨_, delay_trace s d, rfl, rfl⟩

/-- Settles O28: each cycle keeps the handshake on the lines the one before left. -/
theorem directionalHandshakeHolds : Obligations.DirectionalHandshakeHolds := by
  intro i s t hi h
  have hkept : KeptBy i (HandshakeFrom s) := keptBy_of_busOperation hi
    (fun a n u hu => (readCycle_handshake a n u).imp fun _ => hu.trans)
    (fun a bs u hu => (writeCycle_handshake a bs u).imp fun _ => hu.trans)
    (fun _ _ hu => hu) (fun _ u hu => hu.trans (delay_handshake .poll u)) (fun _ _ hu => hu)
  obtain ⟨es, htrace, -, hshake⟩ := exec_keeps hkept (.refl s) h
  exact ⟨es, htrace, hshake⟩

end Sys2Proof.Machine
end

section
/-! The device operations and the block API: the registry's look-ups (R166 to R168), and each operation made of
cycles as it runs to its end or ends where one of its cycles does (R169 to R171, R173 to R177, R211). -/

namespace Sys2Proof.Machine

/-! ### Looking up a device (R166 to R168) -/

/-- Settles O33: the model's search is the library's. -/
theorem findDeviceIsTheFirstMatch : Obligations.FindDeviceIsTheFirstMatch := by
  intro mfr chip s
  rw [exec, execFindDevice, findDevice_eq_find]
  rfl

/-- Legal parameters have a legal registry (R12, R166, R167). -/
theorem registryLegal_of_legal {p : Params} (h : p.legal = true) : RegistryLegal p.registry := by
  simp only [Params.legal, Bool.and_eq_true] at h
  obtain ⟨⟨⟨href, hdistinct⟩, hnonzero⟩, -⟩ := h
  exact ⟨by simpa using href, (pairsDistinct_iff _).1 hdistinct,
    by simpa [imp_iff_not_or] using hnonzero⟩

/-- Where no pair occurs twice, the pair of an entry finds that entry (R166). -/
theorem findDevice_of_mem {ds : List DeviceDescriptor} (h : ds.Pairwise PairsDiffer) {d : DeviceDescriptor}
    (hd : d ∈ ds) : findDevice d.mfr d.chip ds = some d := by
  induction ds with
  | nil => cases hd
  | cons e ds ih =>
    obtain ⟨hnew, hrest⟩ := List.pairwise_cons.1 h
    rcases List.mem_cons.1 hd with rfl | hmem
    · exact if_pos ⟨rfl, rfl⟩
    · have hother : ¬(e.mfr = d.mfr ∧ e.chip = d.chip) :=
        fun ⟨hm, hc⟩ => hnew d hmem ⟨hm.symm, hc.symm⟩
      exact (if_neg hother).trans (ih hrest hmem)

/-- A pair that no entry has finds none. -/
theorem findDevice_eq_none {m c : Byte} {ds : List DeviceDescriptor}
    (h : ∀ d ∈ ds, ¬(d.mfr = m ∧ d.chip = c)) : findDevice m c ds = none := by
  rw [findDevice_eq_find, List.find?_eq_none]
  simpa using h

/-- Settles O34: the reference entry is in the registry, and no entry has the pair of zeros. -/
theorem legalRegistryLookups : Obligations.LegalRegistryLookups := by
  intro s hlegal
  obtain ⟨⟨d, hmem, hd⟩, hdistinct, hnonzero⟩ := registryLegal_of_legal hlegal
  have hpair : d.mfr = 0xBF ∧ d.chip = 0x60 := by rw [hd]; exact ⟨rfl, rfl⟩
  have hfind := findDevice_of_mem hdistinct hmem
  rw [hpair.1, hpair.2] at hfind
  refine ⟨⟨d.readSeq, ?_⟩, ?_⟩
  · rw [exec, execFindDevice, hfind, ← hd]; rfl
  · rw [exec, execFindDevice, findDevice_eq_none hnonzero]; rfl

/-! ### Identification (R169, R173) -/

section

variable {s t u : State} {e : OpError}

/-- What the two cycles read, both operations return; `identify` then looks it up. -/
theorem exec_of_readDeviceIds_ok {m c : Byte} (h : readDeviceIds s = .ok (m, c) t) :
    exec .readDeviceIds s = .next (record (.returned (.ids m c)) t) ∧
    exec .identify s = .next (record (.returned (.ids m c))
      (setDevice (findDevice m c t.params.registry) t)) := by
  rw [exec, exec, execReadDeviceIds, execIdentify, identify, h]
  exact ⟨rfl, rfl⟩

/-- An error of the two cycles ends both operations, `identify` before its look-up. -/
theorem exec_of_readDeviceIds_raised (h : readDeviceIds s = .raised e t) :
    exec .readDeviceIds s = .next (record (.raised e) t) ∧
    exec .identify s = .next (record (.raised e) t) := by
  rw [exec, exec, execReadDeviceIds, execIdentify, identify, h]
  exact ⟨rfl, rfl⟩

/-- A one-byte read cycle of a ready engine outside diagnostic mode, at a bad RSYNC (R131). -/
theorem readCycle_one_badSync {a : Addr} {x r : Nibble} {tgt : Target} (hr : s.ready = true)
    (hdiag : s.diagnostic = false) (hans : s.readAnswers a 1 [x, r] tgt) (hbad : r ≠ 0x0) :
    readCycle a 1 s = .raised (.syncError .rsync .memoryRead a r) (readAborted a 1 x r tgt s) := by
  obtain ⟨hp, hd⟩ := (ready_iff s).1 hr
  exact readCycle_of_badSync hp hd (c := 0x0) rfl hans hbad hdiag

/-- An error of the first identification cycle ends the two; the second is not issued. -/
theorem readDeviceIds_of_first_raised (h : readCycle s.params.mfrIdAddr 1 s = .raised e t) :
    readDeviceIds s = .raised e t := by
  rw [readDeviceIds, h]; rfl

/-- An error of the second identification cycle ends the two. -/
theorem readDeviceIds_of_second_raised {m : List Byte × Bool}
    (hfirst : readCycle s.params.mfrIdAddr 1 s = .ok m u)
    (h : readCycle u.params.chipIdAddr 1 u = .raised e t) : readDeviceIds s = .raised e t := by
  rw [readDeviceIds, hfirst, Ran.bind, h]; rfl

end

/-- Settles O35: both operations return what the two cycles read. -/
theorem identificationCompletes : Obligations.IdentificationCompletes := by
  intro mfr chip s t hr hruns
  rw [← (idRuns_same hruns).params, ← findDevice_eq_find]
  exact exec_of_readDeviceIds_ok (readDeviceIds_of_idRuns hr hruns)

/-- Settles O36: both operations end where a cycle of theirs ends. -/
theorem identificationStopsAtSyncError : Obligations.IdentificationStopsAtSyncError := by
  refine ⟨fun x r tgt s hr hdiag hans hbad => ?_,
    fun mfr tar x r tgt s u hr hdiag hfirst hans hbad => ?_⟩
  · exact exec_of_readDeviceIds_raised
      (readDeviceIds_of_first_raised (readCycle_one_badSync hr hdiag hans hbad))
  · have hsame := readRuns_same hfirst
    rw [← hsame.params] at hans ⊢
    exact exec_of_readDeviceIds_raised (readDeviceIds_of_second_raised (readCycle_one hr hfirst)
      (readCycle_one_badSync (hsame.ready.trans hr) (hsame.diagnostic.trans hdiag) hans hbad))

/-! ### Unlock sequences (R170, R174, R175) -/

section

variable {d : DeviceDescriptor} {forWrite : Bool} {s u : State}

/-- With a device, the unlock operations of a ready engine are the device's sequence (R174, R175). -/
theorem unlock_of_device (hr : s.ready = true) (hd : s.device = some d) :
    unlock forWrite s = runSequence (sequenceOf d forWrite) s := by
  obtain ⟨hp, hsync⟩ := (ready_iff s).1 hr
  rw [unlock, readyChecks_of_ready hp hsync, Ran.bind, hd]
  rfl

theorem exec_unlock (forWrite : Bool) (s : State) :
    exec (if forWrite then .unlockForWrite else .unlockForRead) s =
      finish (fun _ => .unit) (unlock forWrite s) := by cases forWrite <;> rfl

/-- A sequence ends at the pair whose cycle ends in a `SyncError` (R136, R137, R170). -/
theorem runSequence_of_writeEndsAt {before after : List CmdPair} {p : CmdPair} {vs : List Nibble}
    {check : SyncCheck} {v : Nibble} {tgt : Target} (hr : s.ready = true) (hruns : sequenceRuns before s u)
    (hans : u.writeAnswers p.addr [p.cmd] vs tgt) (hends : writeEndsAt vs check v) :
    runSequence (before ++ p :: after) s = .raised (.syncError check .memoryWrite p.addr v)
      (writeAborted p.addr [p.cmd] vs tgt u) := by
  obtain ⟨hp, hd⟩ := (ready_iff u).1 ((sequenceRuns_same hruns).ready.trans hr)
  rw [runSequence_append, runSequence_of_sequenceRuns (.inl hr) hruns, Ran.bind, runSequence,
    writeCycle_of_writeEndsAt hp hd (c := 0x0) rfl hans hends]
  rfl

end

/-- Settles O37: the pairs' cycles run to their ends, or there are none. -/
theorem unlockSequenceCompletes : Obligations.UnlockSequenceCompletes := by
  intro d forWrite s t hr hruns
  rw [exec, execExecuteUnlockSequence, executeUnlockSequence, sequenceOf,
    runSequence_of_sequenceRuns hr hruns]
  rfl

/-- Settles O38: the pairs before it run, and its cycle ends the sequence. -/
theorem unlockSequenceStopsAtSyncError : Obligations.UnlockSequenceStopsAtSyncError := by
  intro d forWrite before after p vs check v tgt s u hr hseq hruns hans hends
  have hrun : runSequence (sequenceOf d forWrite) s =
      .raised (.syncError check .memoryWrite p.addr v) (writeAborted p.addr [p.cmd] vs tgt u) := by
    rw [sequenceOf, hseq]
    exact runSequence_of_writeEndsAt hr hruns hans hends
  refine ⟨?_, fun hd => ?_⟩
  · rw [exec, execExecuteUnlockSequence, executeUnlockSequence, hrun]; rfl
  · rw [exec_unlock, unlock_of_device hr hd, hrun]; rfl

/-- Settles O39: past the two checks, an unlock is the device's sequence. -/
theorem unlockRunsTheDevicesSequence : Obligations.UnlockRunsTheDevicesSequence := by
  intro d s t hr hd
  refine ⟨fun hruns => ?_, fun hruns => ?_⟩
  · rw [exec, execUnlockForWrite, unlock_of_device hr hd, sequenceOf, if_pos rfl,
      runSequence_of_sequenceRuns (.inl hr) hruns]
    rfl
  · rw [exec, execUnlockForRead, unlock_of_device hr hd, sequenceOf, if_neg Bool.false_ne_true,
      runSequence_of_sequenceRuns (.inl hr) hruns]
    rfl

/-! ### The status read (R171) -/

/-- Settles O41: the command's cycle and the read back run to their ends. -/
theorem statusReadCompletes : Obligations.StatusReadCompletes := by
  intro status s t hr hruns
  rw [exec, execReadStatusRegister, readStatusRegister_of_statusRuns hr hruns]
  rfl

section

variable {s t u : State} {e : OpError}

/-- An error of a status read ends the operation, and the wait that polls with it. -/
theorem exec_of_readStatusRegister_raised (h : readStatusRegister s = .raised e t) :
    exec .readStatusRegister s = .next (record (.raised e) t) ∧
    exec .waitForWriteComplete s = .next (record (.raised e) t) :=
  ⟨by rw [exec, execReadStatusRegister, h]; rfl, exec_wait_of_status_raised h⟩

/-- An error of the command's write cycle ends the status read; the read cycle is not issued. -/
theorem readStatusRegister_of_command_raised
    (h : writeCycle s.params.statusAddr [Config.statusCmd] s = .raised e t) :
    readStatusRegister s = .raised e t := by
  rw [readStatusRegister, h]; rfl

/-- An error of the read cycle after the command ends the status read. -/
theorem readStatusRegister_of_read_raised
    (hcommand : writeCycle s.params.statusAddr [Config.statusCmd] s = .ok () u)
    (h : readCycle u.params.statusAddr 1 u = .raised e t) : readStatusRegister s = .raised e t := by
  rw [readStatusRegister, hcommand, Ran.bind, h]; rfl

end

/-- Settles O42: both operations end where a cycle of the status read ends. -/
theorem statusReadStopsAtSyncError : Obligations.StatusReadStopsAtSyncError := by
  refine ⟨fun vs check v tgt s hr hans hends => ?_,
    fun x r tgt s u hr hdiag hcommand hans hbad => ?_⟩
  · obtain ⟨hp, hd⟩ := (ready_iff s).1 hr
    exact exec_of_readStatusRegister_raised (readStatusRegister_of_command_raised
      (writeCycle_of_writeEndsAt hp hd (c := 0x0) rfl hans hends))
  · have hsame := writeRuns_same hcommand
    rw [← hsame.params] at hans ⊢
    exact exec_of_readStatusRegister_raised (readStatusRegister_of_read_raised (writeCycle_one hr hcommand)
      (readCycle_one_badSync (hsame.ready.trans hr) (hsame.diagnostic.trans hdiag) hans hbad))

/-! ### Block reads and writes (R176, R177) -/

/-- `writeBlock` is the write cycle (R177). -/
theorem exec_writeBlock_of_writeCycle {a : Addr} {bytes : List Byte} {s t : State}
    (h : writeCycle a bytes s = .ok () t) :
    exec (.writeBlock a bytes) s = .next (record (.returned .unit) t) := by
  rw [exec, execWriteBlock, writeBlock, h]; rfl

/-- Settles O48: each operation is the one cycle it makes. -/
theorem blockOperationsComplete : Obligations.BlockOperationsComplete := by
  refine ⟨fun a bytes x r t y tgt s hr hlen hans hsync => ?_, fun a bytes x y tgt s hr hlen hans => ?_⟩ <;>
    obtain ⟨hp, hd⟩ := (ready_iff s).1 hr
  · obtain ⟨c, hc⟩ := sizeCode_read hlen
    exact exec_readBlock_of_readCycle (readCycle_of_readRuns hp hd hc ⟨x, r, y, tgt, hans, hsync, rfl⟩)
  · obtain ⟨c, hc⟩ := sizeCode_write hlen
    exact exec_writeBlock_of_writeCycle (writeCycle_of_writeRuns hp hd hc ⟨x, y, tgt, hans, rfl⟩)

end Sys2Proof.Machine
end

section
/-! Status polling (R172, R208): one poll of `waitForWriteComplete`, a wait that returns at the first clear
status with its counts (R245), and one whose target stays busy (R224, R249). -/

namespace Sys2Proof.Machine

/-! ### One poll -/

/-- Settles O43: a poll is a status read and what R172 makes of its bit 0. -/
theorem waitPollsTheStatus : Obligations.WaitPollsTheStatus := by
  rintro status _ s t hr rfl hruns
  obtain ⟨v, hexec, hclear, htimeout, hagain⟩ :=
    waitForWriteComplete_of_status (readStatusRegister_of_statusRuns hr hruns)
  rw [hexec]
  refine ⟨fun hb => by rw [hclear hb], fun hb hlimit => ?_, fun hb hlimit => by rw [htimeout hb hlimit]⟩
  rw [hagain hb fun ⟨m, hm, hle⟩ => absurd (hlimit m hm) (Nat.not_lt.2 hle)]
  rfl

/-- A step runs the operation of the caller's first line and retires the line (R90). -/
theorem step_of_exec {line : List Nibble} {rest : List (List Nibble)} {i : Instr} {s t : State}
    (hcalls : s.calls = line :: rest) (hline : decode line = .ok i) (h : exec i s = .next t) :
    step s = .next (retire t) := by
  simp only [step, nextCall, hcalls, hline, h]

section

variable {line : List Nibble} {rest : List (List Nibble)} {b : Byte} {s t : State}
  (hr : s.ready = true) (hcalls : s.calls = line :: rest) (hline : decode line = .ok .waitForWriteComplete)
  (hruns : statusRuns b s t)

include hr hcalls hline hruns

/-- A poll that reads bit 0 clear ends the line (R172). -/
theorem step_of_clearStatus (hb : b.getLsbD 0 = false) :
    step s = .next { record (.returned .unit) t with calls := rest } := by
  obtain ⟨hclear, -, -⟩ := waitPollsTheStatus b _ s t hr rfl hruns
  rw [step_of_exec hcalls hline (hclear hb), retire_of_polls_none rfl, record_calls,
    (statusRuns_same hruns).calls, hcalls]
  rfl

/-- A poll that reads bit 0 set within the limit is one more poll counted, and the line stays (R172). -/
theorem step_of_busyStatus (hb : b.getLsbD 0 = true)
    (hlimit : ∀ m, s.params.pollLimit = some m → s.polls.getD 0 + 1 < m) :
    step s = .next (setPolls (s.polls.getD 0 + 1) (delay .poll t)) := by
  obtain ⟨-, hagain, -⟩ := waitPollsTheStatus b _ s t hr rfl hruns
  rw [step_of_exec hcalls hline (hagain hb hlimit), retire_of_polls_some rfl]
  rfl

end

/-! ### A wait that returns (R172) -/

/-- The reads of a poll loop before the last are each followed by the wait and the rest of the loop (R172). -/
theorem pollRuns_cons {n : Nat} {b last : Byte} {bs : List Byte} {s t : State}
    (h : pollRuns n (b :: bs ++ [last]) s t) : ∃ u, statusRuns b s u ∧
      pollRuns (n + 1) (bs ++ [last]) (setPolls (n + 1) (delay .poll u)) t := by
  cases bs <;> exact h

theorem run_succ_of_step {M : Host.Core} {s t : M.State} (h : M.step s = .next t) (k : Nat) :
    M.run (k + 1) s = M.run k t := by
  rw [Host.Core.run, h]

/-- Status reads with bit 0 set, within the limit, and then one with bit 0 clear: a step each, and the line is
done with (R172). -/
theorem run_of_pollRuns {line : List Nibble} {rest : List (List Nibble)} {last : Byte} {t : State}
    (hline : decode line = .ok .waitForWriteComplete) (hlast : last.getLsbD 0 = false) (busy : List Byte)
    (s : State) (hr : s.ready = true) (hcalls : s.calls = line :: rest)
    (hlimit : ∀ m, s.params.pollLimit = some m → s.polls.getD 0 + busy.length < m)
    (hbusy : ∀ b ∈ busy, b.getLsbD 0 = true) (hruns : pollRuns (s.polls.getD 0) (busy ++ [last]) s t) :
    Sys2Proof.core.run (busy.length + 1) s = .next { record (.returned .unit) t with calls := rest } := by
  induction busy generalizing s with
  | nil => exact run_succ_of_step (M := Sys2Proof.core) (step_of_clearStatus hr hcalls hline hruns hlast) 0
  | cons b bs ih =>
    obtain ⟨u, hstatus, hrest⟩ := pollRuns_cons hruns
    have hsame := statusRuns_same hstatus
    have hroom : ∀ m, s.params.pollLimit = some m → s.polls.getD 0 + 1 + bs.length < m := fun m hm => by
      have := hlimit m hm
      rw [List.length_cons] at this
      omega
    have hstep := step_of_busyStatus hr hcalls hline hstatus (hbusy b List.mem_cons_self)
      fun m hm => by have := hroom m hm; omega
    refine (run_succ_of_step (M := Sys2Proof.core) hstep _).trans ?_
    exact ih _ (hsame.ready.trans hr) (hsame.calls.trans hcalls) (hsame.params ▸ hroom)
      (fun c hc => hbusy c (List.mem_cons_of_mem _ hc)) hrest

/-! ### Clocks and delays of the polls (R245) -/

/-- From `s` to `t` so many host slots and target slots were clocked, and so many waits for a next poll made. -/
structure Polled (hosts targets delays : Nat) (s t : State) : Prop extends Clocked hosts targets s t where
  pollWaits : countWaits .poll t.trace = countWaits .poll s.trace + delays

theorem Polled.trans {h h' n n' d d' : Nat} {s t u : State} (hst : Polled h n d s t)
    (htu : Polled h' n' d' t u) : Polled (h + h') (n + n') (d + d') s u where
  hostSlots := by rw [htu.hostSlots, hst.hostSlots, Nat.add_assoc]
  targetSlots := by rw [htu.targetSlots, hst.targetSlots, Nat.add_assoc]
  hostWaits := by rw [htu.hostWaits, hst.hostWaits, Nat.mul_add, Nat.add_assoc]
  targetWaits := by rw [htu.targetWaits, hst.targetWaits, Nat.mul_add, Nat.add_assoc]
  pollWaits := by rw [htu.pollWaits, hst.pollWaits, Nat.add_assoc]

/-- A cycle's frame holds no wait for a poll. -/
theorem Clocked.polled {h n : Nat} {s t : State} {z : Bool} {hosts targets : List Nibble}
    (hst : Clocked h n s t) (htrace : t.trace = s.trace ++ cycleEvents z (hostEntries hosts) targets) :
    Polled h n 0 s t where
  toClocked := hst
  pollWaits := by
    rw [htrace, countWaits_append, countWaits_cycleEvents _ z (allHost_hostEntries _)]
    rfl

theorem readRuns_polled {a : Addr} {bytes : List Byte} {tar : Nibble} {s t : State}
    (h : readRuns a bytes tar s t) : Polled 11 (4 + 2 * bytes.length) 0 s t := by
  obtain ⟨x, r, y, tgt, -, -, rfl⟩ := h
  exact (readDone_clocked ..).polled rfl

theorem writeRuns_polled {a : Addr} {bytes : List Byte} {s t : State} (h : writeRuns a bytes s t) :
    Polled (11 + 2 * bytes.length) 4 0 s t := by
  obtain ⟨x, y, tgt, -, rfl⟩ := h
  have hclocked : Clocked (11 + 2 * bytes.length) 4 s (writeDone a bytes x y tgt s) :=
    (writeSent_clocked a bytes [x, 0x0, 0xF, y] tgt s).of_logs_eq rfl rfl
  exact hclocked.polled rfl

/-- A status read is 34 clocks, 24 of them host slots (R171, R245). -/
theorem statusRuns_polled {b : Byte} {s t : State} (h : statusRuns b s t) : Polled 24 10 0 s t := by
  obtain ⟨u, tar, hcommand, hread⟩ := h
  exact (writeRuns_polled hcommand).trans (readRuns_polled hread)

/-- The wait before the next poll clocks nothing (R172). -/
theorem polled_pollDelay (n : Nat) (s : State) : Polled 0 0 1 s (setPolls n (delay .poll s)) where
  hostSlots := rfl
  targetSlots := rfl
  hostWaits := by simp [countWaits]
  targetWaits := by simp [countWaits]
  pollWaits := by simp [countWaits]

/-- A poll loop is its status reads with a wait between two of them (R172, R245). -/
theorem pollRuns_polled {n : Nat} {bs : List Byte} {b : Byte} {s t : State} (h : pollRuns n (bs ++ [b]) s t) :
    Polled (24 * (bs.length + 1)) (10 * (bs.length + 1)) bs.length s t := by
  induction bs generalizing n s with
  | nil => exact statusRuns_polled h
  | cons c cs ih =>
    obtain ⟨u, hstatus, hrest⟩ := pollRuns_cons h
    have hpolled := ((statusRuns_polled hstatus).trans (polled_pollDelay _ u)).trans (ih hrest)
    rw [List.length_cons]
    convert hpolled using 1 <;> omega

/-- Settles O44: a step for each status read, and the counts of each read and of the waits between them. -/
theorem waitReturnsAtTheFirstClearStatus : Obligations.WaitReturnsAtTheFirstClearStatus := by
  intro line rest busy last s t hr hcalls hline hpolls hlimit hbusy hlast hruns
  have hstart : s.polls.getD 0 = 0 := by rw [hpolls]; rfl
  obtain ⟨⟨hhosts, htargets, hhostWaits, htargetWaits⟩, hpollWaits⟩ := pollRuns_polled hruns
  refine ⟨run_of_pollRuns hline hlast busy s hr hcalls ?_ hbusy ?_, by omega, by omega, by omega, hpollWaits⟩
  · rwa [hstart, Nat.zero_add]
  · rwa [hstart]

/-! ### A target that stays busy (R69, R224, R249) -/

/-- A status read leaves the reference target as it was, out of status mode (R69). -/
theorem statusRuns_target {b : Byte} {rt : RefTarget} {s t : State} (hr : s.ready = true)
    (ht : s.target = .reference rt) (h : statusRuns b s t) :
    t.target = .reference { rt with statusMode := false } := by
  obtain ⟨u, tar, hcommand, hread⟩ := h
  have hready := (writeRuns_same hcommand).ready.trans hr
  obtain ⟨v, hwrote, -, hv⟩ := writeCycle_reference ht hr s.params.statusAddr (.one Config.statusCmd)
  obtain ⟨-, rfl⟩ := Ran.ok.inj ((writeCycle_one hr hcommand).symm.trans hwrote)
  rw [RefTarget.complete_status rfl] at hv
  obtain ⟨w, hdone, -, hw⟩ := readCycle_reference hv hready s.params.statusAddr .b1
  obtain ⟨-, rfl⟩ := Ran.ok.inj ((readCycle_one hready hread).symm.trans hdone)
  exact hw

/-- A ready engine at a wait without a limit, on a reference target whose status has bit 0 set. -/
structure StuckPolling (s : State) : Prop where
  ready : s.ready = true
  waiting : ∃ line rest, s.calls = line :: rest ∧ decode line = .ok .waitForWriteComplete
  unlimited : s.params.pollLimit = none
  busy : ∃ rt, s.target = .reference rt ∧ rt.status.getLsbD 0 = true

/-- Such an engine polls once more, with nothing told to the caller, and is such an engine again. -/
theorem StuckPolling.polls_again {s : State} (h : StuckPolling s) : ∃ t, step s = .next t ∧
    StuckPolling t ∧ t.polls = some (s.polls.getD 0 + 1) ∧ t.calls = s.calls ∧ t.results = s.results := by
  obtain ⟨hr, ⟨line, rest, hcalls, hline⟩, hlimit, rt, ht, hbusy⟩ := h
  obtain ⟨u, hruns⟩ := statusRuns_reference ht
  have hsame := statusRuns_same hruns
  have htarget := statusRuns_target hr ht hruns
  have hstep := step_of_busyStatus hr hcalls hline hruns hbusy fun m hm => by simp [hlimit] at hm
  exact ⟨_, hstep, ⟨hsame.ready.trans hr, ⟨line, rest, hsame.calls.trans hcalls, hline⟩,
    hsame.params ▸ hlimit, _, htarget, hbusy⟩, rfl, hsame.calls, hsame.results⟩

/-- After any number of steps it is still polling, by as many polls. -/
theorem StuckPolling.polls_forever {s : State} (h : StuckPolling s) (k : Nat) :
    ∃ t, Sys2Proof.core.run (k + 1) s = .next t ∧ StuckPolling t ∧
      t.polls = some (s.polls.getD 0 + (k + 1)) ∧ t.calls = s.calls ∧ t.results = s.results := by
  induction k generalizing s with
  | zero =>
    obtain ⟨u, hstep, hu⟩ := h.polls_again
    exact ⟨u, run_succ_of_step (M := Sys2Proof.core) hstep 0, hu⟩
  | succ k ih =>
    obtain ⟨u, hstep, hu, hpolls, hcalls, hresults⟩ := h.polls_again
    obtain ⟨t, hrun, ht, htpolls, htcalls, htresults⟩ := ih hu
    refine ⟨t, (run_succ_of_step (M := Sys2Proof.core) hstep (k + 1)).trans hrun, ht, ?_,
      htcalls.trans hcalls, htresults.trans hresults⟩
    rw [htpolls, hpolls, Option.getD_some, Nat.add_assoc, Nat.add_comm 1]

/-- Settles O45: every poll reads the same busy status and leaves the engine at the same line. -/
theorem stuckBusyBitPollsForever : Obligations.StuckBusyBitPollsForever := by
  intro line rest rt s hr hcalls hline hpolls hlimit ht hbusy k
  have hstuck : StuckPolling s := ⟨hr, ⟨line, rest, hcalls, hline⟩, hlimit, rt, ht, hbusy⟩
  obtain ⟨t, hrun, hstill, htpolls, htcalls, htresults⟩ := hstuck.polls_forever k
  rw [hpolls, Option.getD_none, Nat.zero_add] at htpolls
  exact ⟨t, hrun, htpolls, htcalls, htresults, hstill.ready⟩

end Sys2Proof.Machine
end

section
/-! The two faults and the missing device (R205 to R207, R212): a ready engine runs every operation, an
operation that is no bus operation runs in every state, and no device means no unlock until `identify`. -/

namespace Sys2Proof.Machine

/-! ### An engine in use stays in use -/

/-- A run that does not fault, and leaves the engine ready where it returns. -/
def Ran.StaysReady {α : Type} : Ran α → Prop
  | .ok _ s => s.ready = true
  | .raised _ _ => True
  | .faulted _ => False

theorem Ran.StaysReady.bind {α β : Type} {r : Ran α} {k : α → State → Ran β} (h : r.StaysReady)
    (hk : ∀ a s, s.ready = true → (k a s).StaysReady) : (r.bind k).StaysReady := by
  cases r with
  | ok a s => exact hk a s h
  | raised e s => trivial
  | faulted f => exact h.elim

theorem Ran.StaysReady.finish_next {α : Type} {r : Ran α} (h : r.StaysReady) (w : α → OpValue) :
    ∃ t, finish w r = .next t := by
  cases r with
  | ok a s => exact ⟨_, rfl⟩
  | raised e s => exact ⟨_, rfl⟩
  | faulted f => exact h.elim

section

variable {s : State} (hr : s.ready = true)

include hr

/-- The two checks are passed, and a cycle makes no other (R128). -/
theorem readCycle_staysReady (a : Addr) (n : Nat) : (readCycle a n s).StaysReady := by
  obtain ⟨hp, hd⟩ := (ready_iff s).1 hr
  rcases readCycle_all a n s with ⟨hp', -⟩ | ⟨-, hd', -⟩ | ⟨-, -, h⟩ | ⟨-, x, r, tgt, -, -, -, -, -, h⟩ |
    ⟨-, bytes, t, u, -, -, -, hu, h⟩
  · simp [hp] at hp'
  · simp [hd] at hd'
  · rw [h]; trivial
  · rw [h]; trivial
  · rw [h]; exact (readRuns_same hu).ready.trans hr

theorem writeCycle_staysReady (a : Addr) (bytes : List Byte) : (writeCycle a bytes s).StaysReady := by
  obtain ⟨hp, hd⟩ := (ready_iff s).1 hr
  rcases writeCycle_all a bytes s with ⟨hp', -⟩ | ⟨-, hd', -⟩ | ⟨-, -, h⟩ | ⟨-, -, -, x, r, tgt, -, -, h⟩ |
    ⟨-, -, -, x, t, tgt, -, -, h⟩ | ⟨-, -, -, u, hu, h⟩
  · simp [hp] at hp'
  · simp [hd] at hd'
  · rw [h]; trivial
  · rw [h]; trivial
  · rw [h]; trivial
  · rw [h]; exact (writeRuns_same hu).ready.trans hr

theorem readBlock_staysReady (a : Addr) (n : Nat) : (readBlock a n s).StaysReady :=
  (readCycle_staysReady hr a n).bind fun _ _ h => h

theorem readDeviceIds_staysReady : (readDeviceIds s).StaysReady :=
  (readCycle_staysReady hr _ _).bind fun _ _ h => (readCycle_staysReady h _ _).bind fun _ _ h => h

theorem identify_staysReady : (identify s).StaysReady :=
  (readDeviceIds_staysReady hr).bind fun _ _ h => h

theorem runSequence_staysReady (ps : List CmdPair) : (runSequence ps s).StaysReady := by
  induction ps generalizing s with
  | nil => exact hr
  | cons p ps ih => exact (writeCycle_staysReady hr _ _).bind fun _ _ h => ih h

theorem readStatusRegister_staysReady : (readStatusRegister s).StaysReady :=
  (writeCycle_staysReady hr _ _).bind fun _ _ h => (readCycle_staysReady h _ _).bind fun _ _ h => h

/-- Past the two checks a missing device ends an unlock, with nothing written (R205). -/
theorem unlock_of_noDevice (hd : s.device = none) (forWrite : Bool) :
    unlock forWrite s = .raised .unsupportedDevice s := by
  obtain ⟨hp, hsync⟩ := (ready_iff s).1 hr
  rw [unlock, readyChecks_of_ready hp hsync, Ran.bind, hd]

theorem unlock_staysReady (forWrite : Bool) : (unlock forWrite s).StaysReady := by
  cases hd : s.device with
  | none => rw [unlock_of_noDevice hr hd]; trivial
  | some d => rw [unlock_of_device hr hd]; exact runSequence_staysReady hr _

end

/-! ### What runs -/

theorem afterPoll_next (n : Nat) (b : Byte) (s : State) : ∃ t, afterPoll n b s = .next t := by
  rw [afterPoll]
  split_ifs <;> exact ⟨_, rfl⟩

/-- A poll of a ready engine returns, raises or goes on (R172). -/
theorem exec_wait_next {s : State} (hr : s.ready = true) : ∃ t, exec .waitForWriteComplete s = .next t := by
  cases h : readStatusRegister s with
  | ok b u => rw [exec_wait_of_status_ok h]; exact afterPoll_next _ b u
  | raised e u => exact ⟨_, exec_wait_of_status_raised h⟩
  | faulted f => exact (h ▸ readStatusRegister_staysReady hr : (Ran.faulted f).StaysReady).elim

/-- A sequence of no pairs issues no cycle and so needs no ready engine (R170, log 12). -/
theorem exec_executeUnlockSequence_next {d : DeviceDescriptor} {forWrite : Bool} {s : State}
    (h : sequenceOf d forWrite ≠ [] → s.ready = true) :
    ∃ t, exec (.executeUnlockSequence d forWrite) s = .next t := by
  rw [exec, execExecuteUnlockSequence, executeUnlockSequence]
  by_cases hps : sequenceOf d forWrite = []
  · rw [hps]; exact ⟨_, rfl⟩
  · exact (runSequence_staysReady (h hps) _).finish_next _

/-- An operation that is no bus operation, or that a ready engine runs, answers a next state. -/
theorem exec_next {i : Instr} {s : State} (h : busOperation i = true → s.ready = true) :
    ∃ t, exec i s = .next t := by
  cases i with
  | setLinesOutput | setLinesInput _ | assertFrame _ | setClock _ | busInit | writeNibble _ _ | readNibble
  | findDevice _ _ => exact ⟨_, rfl⟩
  | sizeCode n k => exact exec_sizeCode_next n k s
  | executeUnlockSequence d forWrite =>
    exact exec_executeUnlockSequence_next fun hps => h (by simpa [busOperation] using hps)
  | waitForWriteComplete => exact exec_wait_next (h rfl)
  | readCycle a n => exact (readCycle_staysReady (h rfl) a n).finish_next _
  | readFrame a size => exact (readCycle_staysReady (h rfl) _ _).finish_next _
  | readBlock a n => exact (readBlock_staysReady (h rfl) a n).finish_next _
  | writeCycle a bytes => exact (writeCycle_staysReady (h rfl) a bytes).finish_next _
  | writeFrame a data => exact (writeCycle_staysReady (h rfl) _ _).finish_next _
  | writeBlock a bytes => exact (writeCycle_staysReady (h rfl) a bytes).finish_next _
  | readDeviceIds => exact (readDeviceIds_staysReady (h rfl)).finish_next _
  | identify => exact (identify_staysReady (h rfl)).finish_next _
  | readStatusRegister => exact (readStatusRegister_staysReady (h rfl)).finish_next _
  | unlockForWrite => exact (unlock_staysReady (h rfl) true).finish_next _
  | unlockForRead => exact (unlock_staysReady (h rfl) false).finish_next _

/-! ### The statements -/

/-- Settles O20: a bus operation ends as the two checks say, and whatever passes them runs. -/
theorem faultsAreExactlyTheTwoChecks : Obligations.FaultsAreExactlyTheTwoChecks := by
  intro i s
  cases hi : busOperation i with
  | false =>
    obtain ⟨t, ht⟩ := exec_next (i := i) (s := s) fun h => absurd (hi.symm.trans h) Bool.false_ne_true
    simp [ht]
  | true =>
    rcases readyChecks_cases s with ⟨hp, h⟩ | ⟨hp, hd, h⟩ | ⟨hp, hd, -⟩
    · simp [exec_of_faulted h hi, hp]
    · simp [exec_of_faulted h hi, hp, hd]
    · obtain ⟨t, ht⟩ := exec_next (i := i) fun _ => (ready_iff s).2 ⟨hp, hd⟩
      simp [ht, hp, hd]

/-- Settles O40: past the two checks, the missing device is the outcome. -/
theorem unlockNeedsADevice : Obligations.UnlockNeedsADevice := by
  intro s hr hd
  constructor
  · rw [exec, execUnlockForWrite, unlock_of_noDevice hr hd]; rfl
  · rw [exec, execUnlockForRead, unlock_of_noDevice hr hd]; rfl

/-- Settles O57: `busInit` leaves a ready Idle engine without a device, where an unlock ends as in O40. -/
theorem busInitRecovers : Obligations.BusInitRecovers := by
  intro s
  have hready : (record (.returned .unit) (busInit s)).ready = true := by
    rw [ready_record, busInit_eq]; rfl
  have hphase : (busInit s).phase = .idle := by rw [busInit_eq]
  have hdevice : (busInit s).device = none := by rw [busInit_eq]
  exact ⟨_, rfl, hready, hphase, (unlockNeedsADevice _ hready hdevice).1⟩

end Sys2Proof.Machine
end

section
/-! The caller's interface: a step with no line waiting, a line that is no instruction's words, and a line laid
out from a number (R234; log 3, log 4, log 10). -/

namespace Sys2Proof.Machine

/-- With no line waiting a step changes nothing (R234). -/
theorem step_of_no_calls {s : State} (h : s.calls = []) : step s = .next s := by
  simp only [step, nextCall, h]

/-- A line that is no instruction's words is refused (log 3). -/
theorem step_of_undecodable {s : State} {line : List Nibble} {rest : List (List Nibble)} {e : DecodeError}
    (hcalls : s.calls = line :: rest) (hline : decode line = .error e) :
    step s = .refused (.undecodable e) := by
  simp only [step, nextCall, hcalls, hline]

/-- The number is read through the line it is laid out as (log 4). -/
theorem decodeTableWord_eq_some_iff {nbits w : Nat} {i : Instr} :
    decodeTableWord nbits w = some i ↔ decode (lineOfNumber nbits w) = .ok i := by
  rw [decodeTableWord]
  cases decode (lineOfNumber nbits w) <;> simp

/-- Settles O2: the line that `withFetchWord` puts first is the one the number is laid out as. -/
theorem linesAreTheModelsInterface : Obligations.LinesAreTheModelsInterface :=
  ⟨fun _ => step_of_no_calls, fun _ _ _ _ => step_of_undecodable,
    fun _ nbits w _ h => ⟨lineOfNumber nbits w, decodeTableWord_eq_some_iff.1 h, rfl⟩⟩

end Sys2Proof.Machine
end

section
/-! `busInit` as an operation, and a second one after it (R109, R232, R236). -/

namespace Sys2Proof.Machine

theorem exec_busInit (s : State) : exec .busInit s = .next (record (.returned .unit) (busInit s)) := rfl

/-- Settles O12: the levels that `busInit_eq` names by their constants are those of R43's second column. -/
theorem busInitEffect : Obligations.BusInitEffect := fun s => by
  rw [exec_busInit, busInit_eq]
  rfl

/-- The reset pulse clears `statusMode` or does nothing, so a second one changes nothing (R44, R69). -/
@[simp] theorem Target.resetPulse_resetPulse (t : Target) : t.resetPulse.resetPulse = t.resetPulse := by
  cases t <;> rfl

/-- `busInit` neither reads nor writes the outcomes and the poll counter. -/
theorem busInit_record (o : OpOutcome) (s : State) : busInit (record o s) = record o (busInit s) := by
  rw [busInit_eq, busInit_eq]
  rfl

/-- A second `busInit` sets what the first has set, and only its events are new (R236). -/
theorem busInit_busInit (s : State) : busInit (busInit s) =
    { busInit s with trace := (busInit s).trace ++ busInitEvents (busInit s).params.weLevel } := by
  simp only [busInit_eq, Target.resetPulse_resetPulse]

/-- Settles O13. -/
theorem busInitTwiceLeavesTheSameState : Obligations.BusInitTwiceLeavesTheSameState := by
  intro s t h
  obtain rfl := Host.Outcome.next.inj h
  rw [exec_busInit, busInit_record, busInit_busInit]
  rfl

end Sys2Proof.Machine
end

section
/-! Clocks and settle delays of the device operations that return: those of their cycles, one after another
(R245). -/

namespace Sys2Proof.Machine

theorem Clocked.refl (s : State) : Clocked 0 0 s s := ⟨rfl, rfl, rfl, rfl⟩

theorem Clocked.trans {h h' n n' : Nat} {s t u : State} (hst : Clocked h n s t) (htu : Clocked h' n' t u) :
    Clocked (h + h') (n + n') s u where
  hostSlots := by rw [htu.hostSlots, hst.hostSlots, Nat.add_assoc]
  targetSlots := by rw [htu.targetSlots, hst.targetSlots, Nat.add_assoc]
  hostWaits := by rw [htu.hostWaits, hst.hostWaits, Nat.mul_add, Nat.add_assoc]
  targetWaits := by rw [htu.targetWaits, hst.targetWaits, Nat.mul_add, Nat.add_assoc]

/-- An operation that has handed over a result has clocked what its run to the end clocks. -/
theorem Clocked.of_finish_returned {α : Type} {w : α → OpValue} {r : Ran α} {h n : Nat} {s t : State}
    {rs : List OpOutcome} {v : OpValue} (hran : ∀ a u, r = .ok a u → Clocked h n s u)
    (hfinish : finish w r = .next t) (hres : t.results = rs ++ [.returned v]) : Clocked h n s t := by
  obtain ⟨a, u, hrun, rfl⟩ := ok_of_finish_returned hfinish hres
  exact (hran a u hrun).of_logs_eq rfl rfl

/-- Two one-byte read cycles (R169). -/
theorem readDeviceIds_clocked {ids : Byte × Byte} {s t : State} (h : readDeviceIds s = .ok ids t) :
    Clocked 22 12 s t := by
  obtain ⟨m, u, hfirst, h⟩ := Ran.bind_eq_ok h
  obtain ⟨c, v, hsecond, h⟩ := Ran.bind_eq_ok h
  obtain ⟨-, rfl⟩ := Ran.ok.inj h
  exact ((readCycle_clocked _ 1 s).1 m u hfirst).trans ((readCycle_clocked _ 1 u).1 c v hsecond)

/-- The look-up clocks nothing (R173). -/
theorem identify_clocked {ids : Byte × Byte} {s t : State} (h : identify s = .ok ids t) :
    Clocked 22 12 s t := by
  obtain ⟨m, u, hids, h⟩ := Ran.bind_eq_ok h
  obtain ⟨-, rfl⟩ := Ran.ok.inj h
  exact (readDeviceIds_clocked hids).of_logs_eq rfl rfl

/-- A one-byte write cycle and a one-byte read cycle (R171). -/
theorem readStatusRegister_clocked {b : Byte} {s t : State} (h : readStatusRegister s = .ok b t) :
    Clocked 24 10 s t := by
  obtain ⟨_, u, hcommand, h⟩ := Ran.bind_eq_ok h
  obtain ⟨r, v, hread, h⟩ := Ran.bind_eq_ok h
  obtain ⟨-, rfl⟩ := Ran.ok.inj h
  exact ((writeCycle_clocked _ _ s).1 u hcommand).trans ((readCycle_clocked _ 1 u).1 r v hread)

/-- A one-byte write cycle for each pair (R170). -/
theorem runSequence_clocked {ps : List CmdPair} {s t : State} (h : runSequence ps s = .ok () t) :
    Clocked (13 * ps.length) (4 * ps.length) s t := by
  induction ps generalizing s with
  | nil =>
    obtain ⟨-, rfl⟩ := Ran.ok.inj h
    exact .refl s
  | cons p ps ih =>
    obtain ⟨_, u, hwrite, hrest⟩ := Ran.bind_eq_ok h
    have hpair : Clocked 13 4 s u := (writeCycle_clocked _ _ s).1 u hwrite
    rw [List.length_cons, Nat.mul_add_one, Nat.mul_add_one, Nat.add_comm _ 13, Nat.add_comm _ 4]
    exact hpair.trans (ih hrest)

/-- Settles O46: the clocks are the sum of both kinds of slot, and each slot has two settle delays. -/
theorem deviceOperationClockCounts : Obligations.DeviceOperationClockCounts := by
  refine ⟨fun i s t m c hi h hres => ?_, fun s t b h hres => ?_, fun d f s t h hres => ?_⟩
  · have hclocked : Clocked 22 12 s t := by
      rcases hi with rfl | rfl
      · exact .of_finish_returned (fun _ _ => readDeviceIds_clocked) h hres
      · exact .of_finish_returned (fun _ _ => identify_clocked) h hres
    obtain ⟨hhosts, htargets, hhostWaits, htargetWaits⟩ := hclocked
    exact ⟨by omega, hhostWaits, htargetWaits⟩
  · obtain ⟨hhosts, htargets, hhostWaits, htargetWaits⟩ :=
      Clocked.of_finish_returned (fun _ _ => readStatusRegister_clocked) h hres
    exact ⟨by omega, hhostWaits, htargetWaits⟩
  · obtain ⟨hhosts, htargets, hhostWaits, htargetWaits⟩ :=
      Clocked.of_finish_returned (fun _ _ => runSequence_clocked) h hres
    exact ⟨by omega, by omega, by omega⟩

end Sys2Proof.Machine
end
